-- ==== Sys2Proof/Word.lean ====
section
/-! DEFINITION. The widths of the block: bytes on the bus, addresses, the 32-bit command, operand and result words
(spec/00_scope.md R11, R18, R19, R20). -/

namespace Sys2Proof

/-- A byte is 8 bits (R20). -/
abbrev Byte := BitVec 8

/-- A command word, a data operand or a result: `CMD_W` = `DATA_W` = 32 bits (R19). -/
abbrev Word := BitVec 32

/-- A register address of the device: `RA_W` = 8 bits (R11). -/
abbrev RegAddr := BitVec 8

/-- A device address on the bus: `DA_W` = 7 bits (R11). -/
abbrev BusAddr := BitVec 7

/-- The opaque cause of a failed transaction: `IOERR_W` = 8 bits (R18; log entry 21). -/
abbrev Cause := BitVec 8

end Sys2Proof
end

