-- ==== Sys2Proof/Config.lean ====
section
/-! DEFINITION. The implementation parameters of spec/00_scope.md section 4 as one record, the moves of the agent on the
far side of the bus (the transport and the device together, spec/20_memory.md R62 to R64), and the free values. -/

namespace Sys2Proof

/-- The parameters a model takes as a configuration record (R10, R12, R13, R15 to R17). -/
structure Config where
  /-- `W_MAX`, the largest register window in bytes (R10). -/
  wMax : Nat
  /-- `DEFAULT_ADDR`, the value `DEV_ADDR` has after reset (R12, R56). -/
  defaultAddr : BusAddr
  /-- `ID_EXPECT`, the identity INIT requires (R13). -/
  idExpect : BitVec 16
  /-- `POLL_DELAY`, in microseconds (R15; log entry 14). -/
  pollDelay : Nat
  /-- `HAS_ALERT_EXT`, whether ALERT_STATUS exists (R16). -/
  hasAlertExt : Bool
  /-- `DRDY_SB`, the start bit of the data-ready field (R17). -/
  drdySb : BitVec 5
  /-- `MODE_SB`, the start bit of the conversion-mode field (R17). -/
  modeSb : BitVec 5
  /-- `SRST_SB`, the start bit of the soft-reset field (R17). -/
  srstSb : BitVec 5
  /-- `ALERT_HIGH_SB`, only with the extension (R175; log entry 16). -/
  alertHighSb : BitVec 5
  /-- `ALERT_LOW_SB`, only with the extension (R175; log entry 16). -/
  alertLowSb : BitVec 5
deriving DecidableEq, Repr

/-- The values this hardware takes (R10, R12, R13, R15 to R17, R175). -/
def Config.baseline : Config where
  wMax := 2
  defaultAddr := 0x48#7
  idExpect := 0x117#16
  pollDelay := 1000
  hasAlertExt := false
  drdySb := 13#5
  modeSb := 10#5
  srstSb := 1#5
  alertHighSb := 15#5
  alertLowSb := 14#5

/-- The baseline with the optional command switched on (R16, R175). -/
def Config.withAlert : Config := { Config.baseline with hasAlertExt := true }

/-- The configurations the spec's rules speak about: a window of the device's own registers (2 bytes) fits, no window is
wider than the 32-bit data path (R10, R93), and each field of CONFIGURATION lies inside its 16 bits (R17, R41, R175).
A premise of invariants only: every meaning runs under every configuration (log entry 20). -/
def Config.wf (c : Config) : Bool :=
  2 ≤ c.wMax && c.wMax ≤ 4 &&
  c.drdySb.toNat + 1 ≤ 16 && c.modeSb.toNat + 2 ≤ 16 && c.srstSb.toNat + 1 ≤ 16 &&
  c.alertHighSb.toNat + 1 ≤ 16 && c.alertLowSb.toNat + 1 ≤ 16

/-- How the transport ends one transaction (R62). -/
inductive Reply where
  /-- The transaction succeeds. -/
  | ok
  /-- The distinct I/O failure, with its opaque cause (R62). -/
  | fail (cause : Cause)
  /-- The transport has not returned yet: the block waits at its step (R248, U12; log entry 5). -/
  | pending
deriving DecidableEq, Repr, Inhabited

/-- A change the device makes to one of its own registers: from now on the first bytes of register `ra` of device `da`
are `bytes` (R58, R64). -/
structure DevChange where
  da : BusAddr
  ra : RegAddr
  bytes : List Byte
deriving DecidableEq, Repr, Inhabited

/-- The far side's part in one transaction: what the device changed on its own since the last one (R58, R64), how the
transport answers (R62), and what the device does because of the transaction or what a failed one left behind (R72, R83;
U3, U4, U9, U11). -/
structure DevMove where
  before : List DevChange
  reply : Reply
  after : List DevChange
deriving DecidableEq, Repr, Inhabited

/-- The reference device's move: it succeeds and changes nothing on its own (R82). -/
def DevMove.quiet : DevMove := { before := [], reply := .ok, after := [] }

/-- FREE VALUE. The far side's n-th move where nothing in the state scripts it: the oracle of R64, U1, U2 (log entry 4). -/
opaque Config.freeMove : Nat → DevMove

/-- FREE VALUE. The byte a place of the device's register space holds when nothing has stored to it (R233, U19; log entry 3). -/
opaque Config.powerOnByte : Nat → Byte

/-- FREE VALUE. What `ACC` holds after a `ValueOverflow`, whose value does not fit it (R122, R207, U15; log entry 6). -/
opaque Config.overflowAcc : Nat → Word

end Sys2Proof
end

