-- ==== Sys2Proof/Syntax.lean ====
section
/-! DEFINITION. The descriptors and the seven commands, one constructor per row of spec/opcode_table.json
(spec/10_state.md R41, R42; spec/30_encoding.md R90, R96, R97). A command is the pair (`CMD`, `DATA`), so each
constructor carries its data operand, also where the command ignores it (R97; log entry 8). -/

namespace Sys2Proof

/-- A BitField descriptor (R41), with the field widths of format B (R93). -/
structure BitField where
  ra : RegAddr
  rw : BitVec 3
  fw : BitVec 6
  sb : BitVec 5
  /-- true: the first byte is the least significant one. -/
  lsbf : Bool
deriving DecidableEq, Repr

/-- A RawRegister descriptor (R42), with the field widths of format R (R94). -/
structure RawRegister where
  ra : RegAddr
  /-- true: two's complement. -/
  sgn : Bool
  len : BitVec 3
deriving DecidableEq, Repr

/-- The commands (R96). -/
inductive Instr where
  /-- BF_READ (R121); `data` is ignored. -/
  | bfRead (d : BitField) (data : Word)
  /-- BF_WRITE (R122); `value` is `DATA[31:0]`. -/
  | bfWrite (d : BitField) (value : Word)
  /-- RAW_READ (R141); `data` is ignored. -/
  | rawRead (d : RawRegister) (data : Word)
  /-- RAW_WRITE (R142); `value` is `DATA[31:0]`. -/
  | rawWrite (d : RawRegister) (value : Word)
  /-- INIT (R161); `addr` is the whole of `DATA`, whose bits 31:7 must be 0 (R102). -/
  | init (addr : Word)
  /-- TEMP_READ (R171); `data` is ignored. -/
  | tempRead (data : Word)
  /-- ALERT_STATUS (R175), only with `HAS_ALERT_EXT`; `data` is ignored. -/
  | alertStatus (data : Word)
deriving DecidableEq, Repr

/-- The one command that is not subject to the `NotReady` check (R110, R205). -/
def Instr.isInit : Instr → Bool
  | .bfRead _ _ => false
  | .bfWrite _ _ => false
  | .rawRead _ _ => false
  | .rawWrite _ _ => false
  | .init _ => true
  | .tempRead _ => false
  | .alertStatus _ => false

end Sys2Proof
end

