-- ==== Sys2Proof/WellFormed.lean ====
section
/-! DEFINITION. The validity checks on the fields of a command (spec/30_encoding.md R100 to R103). A command that fails
one ends with `IllegalCommand` before any transaction (R204). -/

namespace Sys2Proof

/-- R100: `1 <= RW <= W_MAX`, `FW <= 8*RW`, `SB + FW <= 8*RW`; and `RW` at most 4, since only 1 to 4 can ever be legal
(R93). `FW` = 0 is legal. -/
def BitField.legal (c : Config) (d : BitField) : Bool :=
  1 ≤ d.rw.toNat && d.rw.toNat ≤ c.wMax && d.rw.toNat ≤ 4 &&
  d.fw.toNat ≤ 8 * d.rw.toNat && d.sb.toNat + d.fw.toNat ≤ 8 * d.rw.toNat

/-- R101: `1 <= LEN <= W_MAX`; at most 4, the bytes of the 32-bit result (R98, R143). -/
def RawRegister.legal (c : Config) (d : RawRegister) : Bool :=
  1 ≤ d.len.toNat && d.len.toNat ≤ c.wMax && d.len.toNat ≤ 4

/-- R102: `DATA[31:7]` = 0. -/
def initOperandLegal (data : Word) : Bool := data.toNat < 2 ^ 7

/-- The range checks of R110, per command. ALERT_STATUS is a reserved opcode without its extension (R103). -/
def Instr.legal (c : Config) : Instr → Bool
  | .bfRead d _ => d.legal c
  | .bfWrite d _ => d.legal c
  | .rawRead d _ => d.legal c
  | .rawWrite d _ => d.legal c
  | .init addr => initOperandLegal addr
  | .tempRead _ => true
  | .alertStatus _ => c.hasAlertExt

end Sys2Proof
end

