-- ==== Sys2Proof/Decode.lean ====
section
/-! DEFINITION. The decoder and the encoder of the three formats (spec/30_encoding.md R93 to R96, R107, R109, R110, R112).
The decoder selects the row of the opcode map: it refuses a reserved opcode and a set reserved bit, by name. The range
checks of R100 to R103 are `Instr.legal`, made where the command is accepted (log entry 12). -/

namespace Sys2Proof

/-- Why no row of the opcode map is selected. -/
inductive Reject where
  /-- `OPC` is 0 or 8 to 15 (R103). -/
  | reservedOpcode (opc : BitVec 4)
  /-- A field that must be 0 is not (R104). -/
  | reservedBits (opc : BitVec 4)
deriving DecidableEq, Repr

/-- Bits 31:28, the opcode (R93 to R95). -/
def opcOf (cmd : Word) : BitVec 4 := cmd.extractLsb' 28 4

/-- The descriptor a format B word denotes (R93, R109). -/
def bitFieldOf (cmd : Word) : BitField where
  lsbf := cmd.getLsbD 27
  rw := cmd.extractLsb' 24 3
  ra := cmd.extractLsb' 16 8
  fw := cmd.extractLsb' 10 6
  sb := cmd.extractLsb' 5 5

/-- The descriptor a format R word denotes (R94, R109). -/
def rawRegisterOf (cmd : Word) : RawRegister where
  sgn := cmd.getLsbD 27
  len := cmd.extractLsb' 24 3
  ra := cmd.extractLsb' 16 8

/-- A word of a selected opcode, given the number of low bits its format requires to be 0. -/
def unlessReserved (cmd : Word) (zeros : Nat) (i : Instr) : Except Reject Instr :=
  if cmd.extractLsb' 0 zeros = 0#zeros then .ok i else .error (.reservedBits (opcOf cmd))

/-- The command a pair (`CMD`, `DATA`) denotes (R96, R104, R112). -/
def decode (cmd data : Word) : Except Reject Instr :=
  let opc := opcOf cmd
  if opc = 0x1#4 then unlessReserved cmd 5 (.bfRead (bitFieldOf cmd) data)
  else if opc = 0x2#4 then unlessReserved cmd 5 (.bfWrite (bitFieldOf cmd) data)
  else if opc = 0x3#4 then unlessReserved cmd 16 (.rawRead (rawRegisterOf cmd) data)
  else if opc = 0x4#4 then unlessReserved cmd 16 (.rawWrite (rawRegisterOf cmd) data)
  else if opc = 0x5#4 then unlessReserved cmd 28 (.init data)
  else if opc = 0x6#4 then unlessReserved cmd 28 (.tempRead data)
  else if opc = 0x7#4 then unlessReserved cmd 28 (.alertStatus data)
  else .error (.reservedOpcode opc)

/-- A format B word: `OPC` at bit 28, `LSBF` at 27, `RW` at 24, `RA` at 16, `FW` at 10, `SB` at 5, zeros below (R93). -/
def formatB (opc : BitVec 4) (d : BitField) : Word :=
  BitVec.ofNat 32 (opc.toNat * 2 ^ 28 + d.lsbf.toNat * 2 ^ 27 + d.rw.toNat * 2 ^ 24 + d.ra.toNat * 2 ^ 16 +
    d.fw.toNat * 2 ^ 10 + d.sb.toNat * 2 ^ 5)

/-- A format R word: `OPC` at bit 28, `SGN` at 27, `LEN` at 24, `RA` at 16, zeros below (R94). -/
def formatR (opc : BitVec 4) (d : RawRegister) : Word :=
  BitVec.ofNat 32 (opc.toNat * 2 ^ 28 + d.sgn.toNat * 2 ^ 27 + d.len.toNat * 2 ^ 24 + d.ra.toNat * 2 ^ 16)

/-- A format D word: `OPC` at bit 28, zeros below (R95). -/
def formatD (opc : BitVec 4) : Word := BitVec.ofNat 32 (opc.toNat * 2 ^ 28)

/-- The command word of a command (R107). -/
def encodeCmd : Instr → Word
  | .bfRead d _ => formatB 0x1#4 d
  | .bfWrite d _ => formatB 0x2#4 d
  | .rawRead d _ => formatR 0x3#4 d
  | .rawWrite d _ => formatR 0x4#4 d
  | .init _ => formatD 0x5#4
  | .tempRead _ => formatD 0x6#4
  | .alertStatus _ => formatD 0x7#4

/-- The data operand of a command (R97). -/
def encodeData : Instr → Word
  | .bfRead _ data => data
  | .bfWrite _ value => value
  | .rawRead _ data => data
  | .rawWrite _ value => value
  | .init addr => addr
  | .tempRead data => data
  | .alertStatus data => data

/-- The pair (`CMD`, `DATA`) of a command (R90, R107). -/
def encode (i : Instr) : Word × Word := (encodeCmd i, encodeData i)

/-- One row of the match-and-mask table of R112. -/
structure OpcodeRow where
  pattern : Word
  mask : Word
deriving DecidableEq, Repr

/-- A word selects a row when `w & mask = match` (R112). -/
def OpcodeRow.selects (r : OpcodeRow) (w : Word) : Bool := (w &&& r.mask) == r.pattern

/-- The rows of R112, in the order of the opcode map. -/
def opcodeRows : List OpcodeRow :=
  [ ⟨0x10000000#32, 0xF000001F#32⟩, ⟨0x20000000#32, 0xF000001F#32⟩,
    ⟨0x30000000#32, 0xF000FFFF#32⟩, ⟨0x40000000#32, 0xF000FFFF#32⟩,
    ⟨0x50000000#32, 0xFFFFFFFF#32⟩, ⟨0x60000000#32, 0xFFFFFFFF#32⟩, ⟨0x70000000#32, 0xFFFFFFFF#32⟩ ]

/-- The pair a numbered word of the opcode table stands for: `CMD` in bits 31:0, `DATA` in bits 63:32, every bit from
`nbits` up 0. -/
def tablePair (nbits w : Nat) : Word × Word :=
  (BitVec.ofNat 32 (w % 2 ^ nbits), BitVec.ofNat 32 (w % 2 ^ nbits / 2 ^ 32))

/-- The command the decoder reads from a numbered word of the opcode table. -/
def decodeTableWord (nbits w : Nat) : Option Instr :=
  match decode (tablePair nbits w).1 (tablePair nbits w).2 with
  | .ok i => some i
  | .error _ => none

end Sys2Proof
end

