-- ==== Sys2Proof/Machine/State.lean ====
section
/-! DEFINITION. Everything the spec gives the machine, as plain data (spec/10_state.md R30 to R36, R56), the agents at its
two ports (the host, and the transport with the device), the reasons a step can stop, and the state after reset. -/

namespace Sys2Proof.Machine

/-- The sequencer state, the block's program counter: which step it performs next (R36). -/
inductive Seq where
  /-- No command in progress. -/
  | idle
  /-- The read of a BitField command. -/
  | bfRd
  /-- The write-back of BF_WRITE. -/
  | bfWr
  /-- The read of RAW_READ. -/
  | rawRd
  /-- The write of RAW_WRITE. -/
  | rawWr
  /-- INIT: the identity read. -/
  | iId
  /-- INIT: the soft-reset read-modify-write, its read. -/
  | iSrstRd
  /-- INIT: the soft-reset read-modify-write, its write. -/
  | iSrstWr
  /-- INIT: the mode read-modify-write, its read. -/
  | iModeRd
  /-- INIT: the mode read-modify-write, its write. -/
  | iModeWr
  /-- INIT: a data-ready poll read. -/
  | iPollRd
  /-- INIT: the delay between two polls. -/
  | iPollWait
  /-- INIT: the priming temperature read. -/
  | iPrimeRd
  /-- The read of TEMP_READ. -/
  | tRd
  /-- The read of ALERT_STATUS. -/
  | aRd
deriving DecidableEq, Repr

/-- The status of a response (R99); codes 6 to 15 are never produced. -/
inductive Status where
  | ok
  | deviceNotFound
  | busIOError
  | illegalCommand
  | notReady
  | valueOverflow
deriving DecidableEq, Repr

/-- The response of a command (R91). -/
structure Response where
  status : Status
  result : Word
deriving DecidableEq, Repr

/-- What the host does next at the port. The list of these is the host's own plan, not a queue of the block, which has
none (R92; log entry 9). -/
inductive HostInput where
  /-- It presents a command and waits for the response (R90, R92). -/
  | command (cmd data : Word)
  /-- It lets one step of the block go by. -/
  | pass
  /-- It applies the block's reset, which is taken whatever the block is doing (R222, R230). -/
  | reset
deriving DecidableEq, Repr

/-- An event of the trace (R24): a transaction that returned, or a delay. -/
inductive Event where
  | read (da : BusAddr) (ra : RegAddr) (n : Nat) (bytes : List Byte)
  | readFailed (da : BusAddr) (ra : RegAddr) (n : Nat) (cause : Cause)
  | write (da : BusAddr) (ra : RegAddr) (bytes : List Byte)
  | writeFailed (da : BusAddr) (ra : RegAddr) (bytes : List Byte) (cause : Cause)
  | delay (micros : Nat)
deriving DecidableEq, Repr

/-- The device's register space: the bytes stored to since power-on, by their place (`regKey`), strictly rising. A place
that is not listed has no stored byte. It is the device agent's, not a copy the block keeps (R33, R54, R58; log entry 3). -/
abbrev Memory := List Host.Cell

/-- The reasons the machine can stop. -/
inductive Fault where
  /-- Raised by `step` where a command is in progress and the latches `CMD`, `DATA` hold no command. Safe: the spec gives
  no behaviour there and no run from reset gets there (log entry 11). -/
  | latchNotACommand
  /-- Raised by every meaning where `seq` names a step of another command. Safe, for the same reason (log entry 11). -/
  | stepOfAnotherCommand
deriving DecidableEq, Repr

/-- The reasons a step has no meaning. -/
inductive Refusal where
  /-- An instruction without a meaning, raised by `exec` only. Safe. No arm raises it. -/
  | notModelled (mnemonic : String)
deriving DecidableEq, Repr

/-- The machine. The block: `devAddr` to `acc` (R30). Its configuration: `cfg`, which nothing writes (log entry 1). The
agents at its ports: `inbox` and `responses` are the host's, `mem`, `script` and `freeIdx` the far side's. `trace` is the
spec's notion for stating behaviour (R24, R220). -/
structure State where
  /-- The parameters (R10 to R17, R175). -/
  cfg : Config
  /-- `DEV_ADDR` (R31). -/
  devAddr : BusAddr
  /-- `INITED` (R32). -/
  inited : Bool
  /-- `seq` (R36). -/
  seq : Seq
  /-- `CMD` (R35). -/
  cmd : Word
  /-- `DATA` (R35). -/
  data : Word
  /-- `BUF`, `W_MAX` bytes, the first byte on the bus first (R34). -/
  buf : List Byte
  /-- `ACC`, `8*W_MAX` bits, at most 32, held with zeros above (R34). -/
  acc : Word
  /-- What the host will do, soonest first (R90, R92, R230). -/
  inbox : List HostInput
  /-- The responses delivered, oldest first (R91). -/
  responses : List Response
  /-- The device's register space (R54, R75). -/
  mem : Memory
  /-- The far side's scripted moves, soonest first, one per transaction (R64). -/
  script : List DevMove
  /-- MODEL'S OWN: the counter the free values are applied to (log entry 4). -/
  freeIdx : Nat
  /-- MODEL'S OWN: the trace, oldest event first (R24, R76). -/
  trace : List Event
deriving DecidableEq, Repr

/-- The machine right after reset with a given configuration: `seq` = `IDLE`, `INITED` = 0, `DEV_ADDR` = `DEFAULT_ADDR`
(R56); the latches and working registers, which R56 leaves unspecified, 0 (log entry 2); nothing presented, nothing
pending, nothing stored. -/
def State.resetWith (c : Config) : State where
  cfg := c
  devAddr := c.defaultAddr
  inited := false
  seq := .idle
  cmd := 0#32
  data := 0#32
  buf := List.replicate c.wMax 0#8
  acc := 0#32
  inbox := []
  responses := []
  mem := []
  script := []
  freeIdx := 0
  trace := []

/-- The machine right after reset (R56, R230). -/
def State.reset : State := State.resetWith Config.baseline

/-- What one step of an instruction gives. -/
abbrev Result := Host.Outcome State Fault Refusal

/-- What a step finds to do. -/
inductive Fetch where
  /-- The block's reset is applied (R230). -/
  | reset (s : State)
  /-- No command in progress and none presented (R231). -/
  | idle (s : State)
  /-- A command presented in `IDLE`, or the one in progress. -/
  | run (i : Instr) (s : State)
  /-- A presented word that selects no row of the opcode map (R103, R104). -/
  | illegal (s : State)
  /-- A command in progress, and latches that hold none. -/
  | corrupt
deriving DecidableEq, Repr

/-- How one read transaction stands (R60, R62). -/
inductive ReadOutcome where
  | returned (bytes : List Byte) (s : State)
  | failed (cause : Cause) (s : State)
  | waiting (s : State)
deriving DecidableEq, Repr

/-- How one write transaction stands (R61, R62). -/
inductive WriteOutcome where
  | returned (s : State)
  | failed (cause : Cause) (s : State)
  | waiting (s : State)
deriving DecidableEq, Repr

end Sys2Proof.Machine
end

