-- ==== Sys2Proof/Machine/Operands.lean ====
section
/-! DEFINITION. The byte-array, bit-field and sign arithmetic of the commands (spec/00_scope.md R20 to R22), on
mathematical integers as R20 says, and the descriptor constants (spec/10_state.md R43 to R48). -/

namespace Sys2Proof.Machine

/-- `fold_msb`: from the first byte to the last, `acc = (acc << 8) | byte` (R21). -/
def foldMsb (bytes : List Byte) : Nat := bytes.foldl (fun acc b => acc * 256 + b.toNat) 0

/-- `fold_lsb`: from the last byte to the first, with the same accumulation (R21). -/
def foldLsb (bytes : List Byte) : Nat := foldMsb bytes.reverse

/-- `fold`, in the byte order `lsbf` selects (R21, R65). -/
def fold (lsbf : Bool) (bytes : List Byte) : Nat := if lsbf then foldLsb bytes else foldMsb bytes

/-- `be_bytes(v, n)`: the `n` bytes of `v`, most significant first (R21, R66). -/
def beBytes (v n : Nat) : List Byte :=
  (List.range n).map fun i => BitVec.ofNat 8 (v >>> (8 * (n - 1 - i)))

/-- `mask(fw, sb)` (R22). -/
def fieldMask (fw sb : Nat) : Nat := ((1 <<< fw) - 1) <<< sb

/-- `v & ~m`: every bit set in `m` is cleared in `v` (R20). -/
def clearBits (v m : Nat) : Nat := v ^^^ (v &&& m)

/-- The bits a descriptor's field occupies (R41). -/
def maskOf (d : BitField) : Nat := fieldMask d.fw.toNat d.sb.toNat

/-- `(acc & mask) >> sb`: the field's value (R121). -/
def extractField (d : BitField) (acc : Nat) : Nat := (acc &&& maskOf d) >>> d.sb.toNat

/-- `(reg & ~mask) | (value << sb)`: the value is not masked to the field's width (R122, R126). -/
def insertField (d : BitField) (reg value : Nat) : Nat :=
  clearBits reg (maskOf d) ||| (value <<< d.sb.toNat)

/-- `signed(v, w)`: the integer the `w`-bit pattern `v` stands for in two's complement (R22). -/
def signed (v w : Nat) : Int := if 2 ^ (w - 1) ≤ v then (v : Int) - 2 ^ w else v

/-- `zext_32(v)` (R22). -/
def zext32 (v : Nat) : Word := BitVec.ofNat 32 v

/-- `sext_32(v, w)` (R22). -/
def sext32 (v w : Nat) : Word := BitVec.ofInt 32 (signed v w)

/-- The scalar a RawRegister descriptor reads in `u` (R98, R141). -/
def scalarOf (d : RawRegister) (u : Nat) : Word :=
  if d.sgn then sext32 u (8 * d.len.toNat) else zext32 u

/-- The one byte RAW_WRITE sends, `value & 0xFF` (R142). -/
def lowByte (value : Word) : Byte := value.setWidth 8

/-- `DESC_DRDY`, the data-ready flag (R43). -/
def descDrdy (c : Config) : BitField := ⟨0x01#8, 2#3, 1#6, c.drdySb, false⟩

/-- `DESC_MODE`, the conversion mode (R44). -/
def descMode (c : Config) : BitField := ⟨0x01#8, 2#3, 2#6, c.modeSb, false⟩

/-- `DESC_SRST`, the soft-reset bit (R45). -/
def descSrst (c : Config) : BitField := ⟨0x01#8, 2#3, 1#6, c.srstSb, false⟩

/-- `DESC_WHOAMI`, the identity register (R46). -/
def descWhoAmI : RawRegister := ⟨0x0F#8, false, 2#3⟩

/-- `DESC_TEMP`, the temperature result register (R47). -/
def descTemp : RawRegister := ⟨0x00#8, true, 2#3⟩

/-- The address of CONFIGURATION (R49, R52). -/
def configurationAddr : RegAddr := 0x01#8

/-- `MODE_CONTINUOUS` (R48). -/
def modeContinuous : Nat := 0b00

/-- `MODE_ONESHOT` (R48). -/
def modeOneshot : Nat := 0b11

/-- `MODE_SHUTDOWN` (R48). -/
def modeShutdown : Nat := 0b01

/-- The temperature a result stands for, in degrees Celsius: `raw / 128` (R14, R172). -/
def temperature (result : Word) : Rat := (result.toInt : Rat) / 128

/-- `RESULT[31:7]`, the floor of the temperature in whole degrees, two's complement (R172). -/
def temperatureFloor (result : Word) : Int := (result.extractLsb' 7 25).toInt

/-- `RESULT[6:0]`, the fraction in units of 1/128 (R172). -/
def temperatureFraction (result : Word) : Nat := (result.extractLsb' 0 7).toNat

end Sys2Proof.Machine
end

