-- ==== Sys2Proof/Machine/Flags.lean ====
section
/-! DEFINITION. The block has no condition codes (spec/10_state.md R39). What it decides on is computed here: the
statuses' codes, and the tests of its conditional transfers (spec/42_device.md R174). -/

namespace Sys2Proof.Machine

/-- The 4-bit code of a status (R99). -/
def Status.code : Status → BitVec 4
  | .ok => 0#4
  | .deviceNotFound => 1#4
  | .busIOError => 2#4
  | .illegalCommand => 3#4
  | .notReady => 4#4
  | .valueOverflow => 5#4

/-- BF_WRITE's test `reg >= 2^(8*rw)` (R122, R206). -/
def fieldOverflows (d : BitField) (reg : Nat) : Bool := 2 ^ (8 * d.rw.toNat) ≤ reg

/-- INIT's identity test, on the whole 16-bit value (R162). -/
def identityMatches (c : Config) (id : Nat) : Bool := id = c.idExpect.toNat

/-- INIT's data-ready test, on the field a poll read (R165). -/
def dataReady (rdy : Nat) : Bool := rdy = 1

/-- Bit `k` of `v` as a number (R20). -/
def bitAt (v k : Nat) : Nat := (v >>> k) &&& 1

/-- ALERT_STATUS's result: bit 1 the high-alert flag, bit 0 the low-alert flag (R175). -/
def alertBits (c : Config) (cfg : Nat) : Nat :=
  (bitAt cfg c.alertHighSb.toNat <<< 1) ||| bitAt cfg c.alertLowSb.toNat

end Sys2Proof.Machine
end

