-- ==== Sys2Proof/Machine/Ops.lean ====
section
/-! DEFINITION. The named operations every command is built from: the device's register space, one transaction on the
transport (spec/20_memory.md R60 to R64, R82, R83), the block's registers, the response and the raise
(spec/00_scope.md R23, spec/60_exceptions.md R200), and the acceptance of a command (spec/30_encoding.md R92, R110). -/

namespace Sys2Proof.Machine

/-! ### The device's register space -/

/-- The place of byte `k` of register `ra` of device `da`. Eight places a register, so that registers share no bytes
(R75; log entry 18). -/
def regKey (da : BusAddr) (ra : RegAddr) (k : Nat) : Nat := (da.toNat * 256 + ra.toNat) * 8 + k

/-- The byte stored at a place, if one was. -/
def Memory.get : Memory → Nat → Option Byte
  | [], _ => none
  | (k, b) :: m, a => if k = a then some b else Memory.get m a

/-- Stores one byte at a place, keeping the places strictly rising. -/
def Memory.put : Memory → Nat → Byte → Memory
  | [], a, v => [(a, v)]
  | (k, b) :: m, a, v =>
    if a < k then (a, v) :: (k, b) :: m
    else if a = k then (a, v) :: m
    else (k, b) :: Memory.put m a v

/-- The places are strictly rising from `lo` and lie in the device's register space, `2^18` places. -/
def Memory.wfFrom : Nat → Memory → Bool
  | _, [] => true
  | lo, (k, _) :: m => lo ≤ k && k < 2 ^ 18 && Memory.wfFrom (k + 1) m

/-- The canonical form. Every entry differs from what an unlisted place reads as, since that is no stored byte. -/
def Memory.wf (m : Memory) : Bool := Memory.wfFrom 0 m

/-- What the device holds at a place: the byte stored there, else what it held at power-on (R64, R233). -/
def Memory.holds (m : Memory) (a : Nat) : Byte := (Memory.get m a).getD (Config.powerOnByte a)

/-- The first `n` bytes of a register (R82). -/
def Memory.window (m : Memory) (da : BusAddr) (ra : RegAddr) (n : Nat) : List Byte :=
  (List.range n).map fun k => Memory.holds m (regKey da ra k)

/-- Stores bytes at consecutive places. -/
def Memory.putBytes : Memory → Nat → List Byte → Memory
  | m, _, [] => m
  | m, a, b :: bs => Memory.putBytes (Memory.put m a b) (a + 1) bs

/-- Replaces the first bytes of a register (R82). A register has eight places. -/
def Memory.store (m : Memory) (da : BusAddr) (ra : RegAddr) (bytes : List Byte) : Memory :=
  Memory.putBytes m (regKey da ra 0) (bytes.take 8)

/-- The device's own changes, in order (R58, R64). -/
def Memory.change (m : Memory) (changes : List DevChange) : Memory :=
  changes.foldl (fun m c => Memory.store m c.da c.ra c.bytes) m

/-! ### The block's registers -/

/-- `seq <- q` (R23). -/
def State.setSeq (s : State) (q : Seq) : State := { s with seq := q }

/-- `ACC` takes a folded or modified window, which fits it (R34). -/
def State.setAcc (s : State) (v : Nat) : State := { s with acc := BitVec.ofNat 32 v }

/-- `BUF` takes the bytes a read returned or a write will send, its first byte first (R34; log entry 22). -/
def State.loadBuf (s : State) (bytes : List Byte) : State := { s with buf := bytes ++ s.buf.drop bytes.length }

/-- `CMD` and `DATA` take the accepted command (R35, R92). -/
def State.latch (s : State) (i : Instr) : State := { s with cmd := encodeCmd i, data := encodeData i }

/-- `x[INITED] <- 0` and `x[DEV_ADDR] <- addr`, `addr` = `DATA[6:0]` (R161). -/
def State.openHandle (s : State) (data : Word) : State := { s with inited := false, devAddr := data.setWidth 7 }

/-- `x[INITED] <- 1` (R168). -/
def State.completeHandle (s : State) : State := { s with inited := true }

/-- What the host still plans. -/
def State.setInbox (s : State) (inputs : List HostInput) : State := { s with inbox := inputs }

/-- One event more on the trace (R24, R76). -/
def State.log (s : State) (e : Event) : State := { s with trace := s.trace ++ [e] }

/-- The device's register space after a change. -/
def State.setMem (s : State) (m : Memory) : State := { s with mem := m }

/-- `respond(status, result)`: delivers the response and sets `seq <- IDLE` (R23). -/
def State.respond (s : State) (st : Status) (result : Word) : State :=
  { s with responses := s.responses ++ [⟨st, result⟩], seq := .idle }

/-- `raise E(info)`, the one way a command ends with an error: the response carries the error's status and `info`, 0
where the rule gives none; nothing is saved and no handler runs (R200, R210). The return from it is the next command's
acceptance in `IDLE` (R212). -/
def State.raise (s : State) (e : Status) (info : Word) : State := s.respond e info

/-- The block's reset: its registers as R56 says, the command in progress abandoned without a response (R230). The device
is not touched. What the host was told and what it plans stand. -/
def State.blockReset (s : State) : State :=
  let r := State.resetWith s.cfg
  { s with
    devAddr := r.devAddr, inited := r.inited, seq := r.seq, cmd := r.cmd, data := r.data, buf := r.buf, acc := r.acc }

/-! ### One transaction on the transport -/

/-- The far side's next move: the scripted one, else the oracle's (R64; log entry 4). -/
def State.move (s : State) : DevMove := s.script.headD (Config.freeMove s.freeIdx)

/-- The move is made: the script and the counter go on. -/
def State.takeMove (s : State) : State := { s with script := s.script.tail, freeIdx := s.freeIdx + 1 }

/-- What the device holds when the transaction reaches it: the device may have changed it (R58, R64). -/
def State.heldMem (s : State) : Memory := Memory.change s.mem s.move.before

/-- The state once the move is made, around the register space the transaction itself leaves (R72, R83). -/
def State.afterMove (s : State) (m : Memory) : State := s.takeMove.setMem (Memory.change m s.move.after)

/-- `BusRead(da, ra, n)`: one read transaction. A successful one returns exactly `n` bytes, what the device holds
(R60, R62 to R64). -/
def busRead (da : BusAddr) (ra : RegAddr) (n : Nat) (s : State) : ReadOutcome :=
  match s.move.reply with
  | .ok =>
    .returned (Memory.window s.heldMem da ra n)
      ((s.afterMove s.heldMem).log (.read da ra n (Memory.window s.heldMem da ra n)))
  | .fail c => .failed c ((s.afterMove s.heldMem).log (.readFailed da ra n c))
  | .pending => .waiting (s.afterMove s.heldMem)

/-- `BusWrite(da, ra, B)`: one write transaction. After a failed one the device holds what its move says, the old bytes,
the new or any (R61, R62, R83). -/
def busWrite (da : BusAddr) (ra : RegAddr) (bytes : List Byte) (s : State) : WriteOutcome :=
  match s.move.reply with
  | .ok => .returned ((s.afterMove (Memory.store s.heldMem da ra bytes)).log (.write da ra bytes))
  | .fail c => .failed c ((s.afterMove s.heldMem).log (.writeFailed da ra bytes c))
  | .pending => .waiting (s.afterMove s.heldMem)

/-- `MemRead(ra, n)`: `BusRead` at `DEV_ADDR`; a failure raises `BusIOError(cause)` (R23, R202). -/
def memRead (ra : RegAddr) (n : Nat) (s : State) (k : List Byte → State → Result) : Result :=
  match busRead s.devAddr ra n s with
  | .returned bytes t => k bytes (t.loadBuf bytes)
  | .failed c t => .next (t.raise .busIOError (c.setWidth 32))
  | .waiting t => .next t

/-- `MemWrite(ra, n, B)`: `BusWrite` at `DEV_ADDR`; a failure raises `BusIOError(cause)` (R23, R202). -/
def memWrite (ra : RegAddr) (bytes : List Byte) (s : State) (k : State → Result) : Result :=
  match busWrite s.devAddr ra bytes (s.loadBuf bytes) with
  | .returned t => k t
  | .failed c t => .next (t.raise .busIOError (c.setWidth 32))
  | .waiting t => .next t

/-! ### The accessor operations, which the device commands share (R160) -/

/-- The read of one field (R121). -/
def fieldRead (d : BitField) (s : State) (k : Nat → State → Result) : Result :=
  memRead d.ra d.rw.toNat s fun bytes t =>
    k (extractField d (fold d.lsbf bytes)) (t.setAcc (fold d.lsbf bytes))

/-- The read half of a field's read-modify-write, and its overflow test (R122). -/
def fieldModify (d : BitField) (value : Nat) (next : Seq) (s : State) : Result :=
  memRead d.ra d.rw.toNat s fun bytes t =>
    let reg := insertField d (fold d.lsbf bytes) value
    if fieldOverflows d reg then
      .next ((t.setAcc ((Config.overflowAcc t.freeIdx).toNat % 2 ^ (8 * t.cfg.wMax))).raise .valueOverflow 0#32)
    else .next ((t.setAcc reg).setSeq next)

/-- The write half: always most significant byte first (R66, R122). -/
def fieldWriteBack (d : BitField) (s : State) (k : State → Result) : Result :=
  memWrite d.ra (beBytes s.acc.toNat d.rw.toNat) s k

/-- The read of a whole register, most significant byte first (R67, R141). -/
def rawFetch (d : RawRegister) (s : State) (k : Nat → State → Result) : Result :=
  memRead d.ra d.len.toNat s fun bytes t => k (foldMsb bytes) (t.setAcc (foldMsb bytes))

/-! ### Accepting a command -/

/-- The first step of a command (R110). -/
def firstStep : Instr → Seq
  | .bfRead _ _ => .bfRd
  | .bfWrite _ _ => .bfRd
  | .rawRead _ _ => .rawRd
  | .rawWrite _ _ => .rawWr
  | .init _ => .iId
  | .tempRead _ => .tRd
  | .alertStatus _ => .aRd

/-- Which steps belong to a command (R36). -/
def hasStep : Instr → Seq → Bool
  | .bfRead _ _, q => q = .bfRd
  | .bfWrite _ _, q => q = .bfRd || q = .bfWr
  | .rawRead _ _, q => q = .rawRd
  | .rawWrite _ _, q => q = .rawWr
  | .init _, q =>
    q = .iId || q = .iSrstRd || q = .iSrstWr || q = .iModeRd || q = .iModeWr || q = .iPollRd || q = .iPollWait ||
    q = .iPrimeRd
  | .tempRead _, q => q = .tRd
  | .alertStatus _, q => q = .aRd

/-- The acceptance of a command in `IDLE`: the range checks, then `INITED`, in the order of R110; a refusal changes no
state of the block (R204, R205; log entry 7). An accepted command is latched and `seq` is its first step. -/
def accept (i : Instr) (s : State) : Result :=
  if !Instr.legal s.cfg i then .next (s.raise .illegalCommand 0#32)
  else if !i.isInit && !s.inited then .next (s.raise .notReady 0#32)
  else .next ((s.latch i).setSeq (firstStep i))

/-! ### What a step finds to do -/

/-- A step with no input of the host's to take: the command in progress, if any. -/
def proceed (s : State) : Fetch :=
  if s.seq = .idle then .idle s
  else match decode s.cmd s.data with
    | .ok i => .run i s
    | .error _ => .corrupt

/-- The block takes a reset at any time, and a command in `IDLE` only (R92, R222). -/
def fetch (s : State) : Fetch :=
  match s.inbox with
  | .reset :: rest => .reset (s.setInbox rest)
  | .pass :: rest => proceed (s.setInbox rest)
  | .command cmd data :: rest =>
    if s.seq = .idle then
      match decode cmd data with
      | .ok i => .run i (s.setInbox rest)
      | .error _ => .illegal (s.setInbox rest)
    else proceed s
  | [] => proceed s

end Sys2Proof.Machine
end

