-- ==== Sys2Proof/Machine/BitField.lean ====
section
/-! DEFINITION. BF_READ and BF_WRITE (spec/40_bitfield.md). -/

namespace Sys2Proof.Machine

/-- BF_READ (R121). -/
def execBfRead (d : BitField) (data : Word) (s : State) : Result :=
  match s.seq with
  | .idle => accept (.bfRead d data) s
  | .bfRd => fieldRead d s fun v t => .next (t.respond .ok (zext32 v))
  | _ => .fault .stepOfAnotherCommand

/-- BF_WRITE (R122). -/
def execBfWrite (d : BitField) (value : Word) (s : State) : Result :=
  match s.seq with
  | .idle => accept (.bfWrite d value) s
  | .bfRd => fieldModify d value.toNat .bfWr s
  | .bfWr => fieldWriteBack d s fun t => .next (t.respond .ok 0#32)
  | _ => .fault .stepOfAnotherCommand

end Sys2Proof.Machine
end

