-- ==== Sys2Proof/Machine/Device.lean ====
section
/-! DEFINITION. INIT, TEMP_READ and ALERT_STATUS (spec/42_device.md). -/

namespace Sys2Proof.Machine

/-- INIT's acceptance: as any command's, then the handle is opened at the operand's address (R161, R176). -/
def acceptInit (addr : Word) (s : State) : Result :=
  if !Instr.legal s.cfg (.init addr) then .next (s.raise .illegalCommand 0#32)
  else .next (((s.latch (.init addr)).openHandle addr).setSeq .iId)

/-- The delay between two polls (R165, R216). -/
def pollWait (s : State) : Result := .next ((s.log (.delay s.cfg.pollDelay)).setSeq .iPollRd)

/-- INIT: identity check (R162), soft reset (R163), mode set (R164), data-ready poll (R165), priming read (R167),
completion (R168). -/
def execInit (addr : Word) (s : State) : Result :=
  match s.seq with
  | .idle => acceptInit addr s
  | .iId => rawFetch descWhoAmI s fun id t =>
      if identityMatches t.cfg id then .next (t.setSeq .iSrstRd) else .next (t.raise .deviceNotFound 0#32)
  | .iSrstRd => fieldModify (descSrst s.cfg) 1 .iSrstWr s
  | .iSrstWr => fieldWriteBack (descSrst s.cfg) s fun t => .next (t.setSeq .iModeRd)
  | .iModeRd => fieldModify (descMode s.cfg) modeContinuous .iModeWr s
  | .iModeWr => fieldWriteBack (descMode s.cfg) s fun t => .next (t.setSeq .iPollRd)
  | .iPollRd => fieldRead (descDrdy s.cfg) s fun rdy t =>
      .next (t.setSeq (if dataReady rdy then .iPrimeRd else .iPollWait))
  | .iPollWait => pollWait s
  | .iPrimeRd => memRead descTemp.ra descTemp.len.toNat s fun _ t => .next (t.completeHandle.respond .ok 0#32)
  | _ => .fault .stepOfAnotherCommand

/-- TEMP_READ (R171). -/
def execTempRead (data : Word) (s : State) : Result :=
  match s.seq with
  | .idle => accept (.tempRead data) s
  | .tRd => rawFetch descTemp s fun u t => .next (t.respond .ok (scalarOf descTemp u))
  | _ => .fault .stepOfAnotherCommand

/-- ALERT_STATUS (R175): one read of CONFIGURATION; accepted only with `HAS_ALERT_EXT` (R103). -/
def execAlertStatus (data : Word) (s : State) : Result :=
  match s.seq with
  | .idle => accept (.alertStatus data) s
  | .aRd => rawFetch ⟨configurationAddr, false, 2#3⟩ s fun v t => .next (t.respond .ok (zext32 (alertBits t.cfg v)))
  | _ => .fault .stepOfAnotherCommand

end Sys2Proof.Machine
end

