-- ==== Sys2Proof/Machine/RawRegister.lean ====
section
/-! DEFINITION. RAW_READ and RAW_WRITE (spec/41_rawregister.md). -/

namespace Sys2Proof.Machine

/-- RAW_READ (R141). -/
def execRawRead (d : RawRegister) (data : Word) (s : State) : Result :=
  match s.seq with
  | .idle => accept (.rawRead d data) s
  | .rawRd => rawFetch d s fun u t => .next (t.respond .ok (scalarOf d u))
  | _ => .fault .stepOfAnotherCommand

/-- RAW_WRITE: one byte, whatever the declared length (R142). -/
def execRawWrite (d : RawRegister) (value : Word) (s : State) : Result :=
  match s.seq with
  | .idle => accept (.rawWrite d value) s
  | .rawWr => memWrite d.ra [lowByte value] s fun t => .next (t.respond .ok 0#32)
  | _ => .fault .stepOfAnotherCommand

end Sys2Proof.Machine
end

