-- ==== Sys2Proof/Machine/Dispatch.lean ====
section
/-! DEFINITION. One arm per command of the opcode map (spec/30_encoding.md R96). -/

namespace Sys2Proof.Machine

def exec (i : Instr) (s : State) : Host.Outcome State Fault Refusal :=
  match i with
  | .bfRead d data => Sys2Proof.Machine.execBfRead d data s
  | .bfWrite d value => Sys2Proof.Machine.execBfWrite d value s
  | .rawRead d data => Sys2Proof.Machine.execRawRead d data s
  | .rawWrite d value => Sys2Proof.Machine.execRawWrite d value s
  | .init addr => Sys2Proof.Machine.execInit addr s
  | .tempRead data => Sys2Proof.Machine.execTempRead data s
  | .alertStatus data => Sys2Proof.Machine.execAlertStatus data s

end Sys2Proof.Machine
end

