-- ==== Sys2Proof/Machine/Step.lean ====
section
/-! DEFINITION. One step of the machine: the block's reset, one step of the sequencer, or a wait in `IDLE`
(spec/10_state.md R36, R37; spec/70_reset_and_hazards.md R230, R231). -/

namespace Sys2Proof.Machine

/-- One step. A word that selects no row of the opcode map is refused with `IllegalCommand` (R103, R104, R204). -/
def step (s : State) : Host.Outcome State Fault Refusal :=
  match fetch s with
  | .reset t => .next t.blockReset
  | .idle t => .next t
  | .run i t => exec i t
  | .illegal t => .next (t.raise .illegalCommand 0#32)
  | .corrupt => .fault .latchNotACommand

/-- The host presents the numbered word of the opcode table as the next command, and the block is in `IDLE` to take it
(log entry 9). -/
def State.withFetchWord (s : State) (nbits w : Nat) : State :=
  { s with seq := .idle, inbox := .command (tablePair nbits w).1 (tablePair nbits w).2 :: s.inbox }

end Sys2Proof.Machine
end

