-- ==== Sys2Proof/Machine/Assembler.lean ====
section
/-! DEFINITION. The textual form of a command and the pseudo-instructions (spec/30_encoding.md R107, R108). A line names its
operands as numbers; the assembled word is the sum of shifts of R107. -/

namespace Sys2Proof.Machine

/-- A line of assembly, with the operands in the order of R107; then the pseudo-instructions of R108. -/
inductive AsmLine where
  | bfRead (ra rw sb fw : Nat) (lsbf : Bool)
  | bfWrite (ra rw sb fw : Nat) (lsbf : Bool) (value : Nat)
  | rawRead (ra len : Nat) (sgn : Bool)
  | rawWrite (ra len : Nat) (sgn : Bool) (value : Nat)
  | init (addr : Nat)
  | tempRead
  | alertStatus
  | getDrdy
  | getMode
  | setMode (m : Nat)
  | getSrst
  | softReset
  | readId
  | readTempRaw
  | initDefault
deriving DecidableEq, Repr

/-- What a pseudo-instruction stands for: one generic command with a descriptor constant's fields (R108). -/
def AsmLine.expand (c : Config) : AsmLine → AsmLine
  | .getDrdy => .bfRead 0x01 2 c.drdySb.toNat 1 false
  | .getMode => .bfRead 0x01 2 c.modeSb.toNat 2 false
  | .setMode m => .bfWrite 0x01 2 c.modeSb.toNat 2 false m
  | .getSrst => .bfRead 0x01 2 c.srstSb.toNat 1 false
  | .softReset => .bfWrite 0x01 2 c.srstSb.toNat 1 false 1
  | .readId => .rawRead 0x0F 2 false
  | .readTempRaw => .rawRead 0x00 2 true
  | .initDefault => .init c.defaultAddr.toNat
  | line => line

/-- `OPC<<28 | LSBF<<27 | RW<<24 | RA<<16 | FW<<10 | SB<<5`, if every operand fits its field (R107; log entry 23). -/
def wordB (opc ra rw sb fw : Nat) (lsbf : Bool) : Option Word :=
  if ra < 2 ^ 8 ∧ rw < 2 ^ 3 ∧ sb < 2 ^ 5 ∧ fw < 2 ^ 6 then
    some (BitVec.ofNat 32
      (opc <<< 28 ||| lsbf.toNat <<< 27 ||| rw <<< 24 ||| ra <<< 16 ||| fw <<< 10 ||| sb <<< 5))
  else none

/-- `OPC<<28 | SGN<<27 | LEN<<24 | RA<<16`, if every operand fits its field (R107; log entry 23). -/
def wordR (opc ra len : Nat) (sgn : Bool) : Option Word :=
  if ra < 2 ^ 8 ∧ len < 2 ^ 3 then
    some (BitVec.ofNat 32 (opc <<< 28 ||| sgn.toNat <<< 27 ||| len <<< 24 ||| ra <<< 16))
  else none

/-- The data operand, if it fits (R107; log entry 23). -/
def operandWord (v : Nat) : Option Word := if v < 2 ^ 32 then some (BitVec.ofNat 32 v) else none

/-- A pair, where both words are given. -/
def bothWords : Option Word → Option Word → Option (Word × Word)
  | some cmd, some data => some (cmd, data)
  | _, _ => none

/-- The pair (`CMD`, `DATA`) of an expanded line; `DATA` is 0 when the command takes none (R107). -/
def assembleCore : AsmLine → Option (Word × Word)
  | .bfRead ra rw sb fw lsbf => bothWords (wordB 1 ra rw sb fw lsbf) (some 0#32)
  | .bfWrite ra rw sb fw lsbf value => bothWords (wordB 2 ra rw sb fw lsbf) (operandWord value)
  | .rawRead ra len sgn => bothWords (wordR 3 ra len sgn) (some 0#32)
  | .rawWrite ra len sgn value => bothWords (wordR 4 ra len sgn) (operandWord value)
  | .init addr => bothWords (some (BitVec.ofNat 32 (5 <<< 28))) (operandWord addr)
  | .tempRead => bothWords (some (BitVec.ofNat 32 (6 <<< 28))) (some 0#32)
  | .alertStatus => bothWords (some (BitVec.ofNat 32 (7 <<< 28))) (some 0#32)
  | _ => none

/-- The pair (`CMD`, `DATA`) a line assembles to (R107, R108). -/
def assemble (c : Config) (line : AsmLine) : Option (Word × Word) := assembleCore (line.expand c)

/-- The operands of a line, separated by commas (R107). -/
def joinOperands : List String → String
  | [] => ""
  | [x] => x
  | x :: xs => x ++ ", " ++ joinOperands xs

/-- The word for a byte order (R107). -/
def orderText (lsbf : Bool) : String := if lsbf then "lsbf" else "msbf"

/-- The letter for a signedness (R107). -/
def signText (sgn : Bool) : String := if sgn then "s" else "u"

/-- The textual form of a line, its numbers in decimal (R107). -/
def AsmLine.text : AsmLine → String
  | .bfRead ra rw sb fw lsbf =>
    "BF_READ " ++ joinOperands [toString ra, toString rw, toString sb, toString fw, orderText lsbf]
  | .bfWrite ra rw sb fw lsbf value =>
    "BF_WRITE " ++ joinOperands [toString ra, toString rw, toString sb, toString fw, orderText lsbf, toString value]
  | .rawRead ra len sgn => "RAW_READ " ++ joinOperands [toString ra, toString len, signText sgn]
  | .rawWrite ra len sgn value => "RAW_WRITE " ++ joinOperands [toString ra, toString len, signText sgn, toString value]
  | .init addr => "INIT " ++ toString addr
  | .tempRead => "TEMP_READ"
  | .alertStatus => "ALERT_STATUS"
  | .getDrdy => "GET_DRDY"
  | .getMode => "GET_MODE"
  | .setMode m => "SET_MODE " ++ toString m
  | .getSrst => "GET_SRST"
  | .softReset => "SOFT_RESET"
  | .readId => "READ_ID"
  | .readTempRaw => "READ_TEMP_RAW"
  | .initDefault => "INIT"

end Sys2Proof.Machine
end

