-- ==== Sys2Proof/Safety.lean ====
section
/-! DEFINITION. What the states of the machine have in common (the invariant), what a safe step is, and runs of the
machine, in the terms the statements use. -/

namespace Sys2Proof.Machine

/-- The step of a command `seq` stands at is one whose `ACC` still has a write-back to make (R122, R163, R164). -/
def Seq.writesBack : Seq → Bool
  | .bfWr => true
  | .iSrstWr => true
  | .iModeWr => true
  | _ => false

/-- The width in bytes of the window a command's write-back writes (R122, R163, R164). -/
def backWidth : Instr → Nat
  | .bfWrite d _ => d.rw.toNat
  | _ => 2

/-- A command in progress is the one in the latches, it passed the decode checks, `seq` is a step of it, its handle stands
as INIT's acceptance or completion left it, and a window to be written back fits its bytes (R32, R35 to R37, R110, R161). -/
def State.inProgress (s : State) (i : Instr) : Bool :=
  Instr.legal s.cfg i && hasStep i s.seq && (s.inited == !i.isInit) &&
  (!i.isInit || s.devAddr == s.data.setWidth 7) &&
  (!s.seq.writesBack || s.acc.toNat < 2 ^ (8 * backWidth i))

/-- The latches hold the command in progress, if there is one. -/
def State.latchesHold (s : State) : Bool :=
  s.seq == .idle ||
    match decode s.cmd s.data with
    | .ok i => s.inProgress i
    | .error _ => false

/-- The invariant: the configuration is one the rules speak about, the device's register space is in canonical form, `BUF`
has `W_MAX` bytes and `ACC` at most `8*W_MAX` bits (R34), and the latches hold the command in progress. -/
def State.Inv (s : State) : Prop :=
  s.cfg.wf = true ∧ Memory.wf s.mem = true ∧ s.buf.length = s.cfg.wMax ∧ s.acc.toNat < 2 ^ (8 * s.cfg.wMax) ∧
  s.latchesHold = true

/-- The bytes a read at `DEV_ADDR` would return now: what the device holds when the transaction reaches it (R64). -/
def State.sees (s : State) (ra : RegAddr) (n : Nat) : List Byte := Memory.window s.heldMem s.devAddr ra n

/-- The frame of a step of a command: the parameters, the handle, the latches and the host's plan are as they were, and
one move of the far side is made (R57). -/
def Keeps (s t : State) : Prop :=
  t.cfg = s.cfg ∧ t.devAddr = s.devAddr ∧ t.inited = s.inited ∧ t.cmd = s.cmd ∧ t.data = s.data ∧ t.inbox = s.inbox ∧
  t.script = s.script.tail ∧ t.freeIdx = s.freeIdx + 1

/-- The step stored nothing in the device: every place holds what the device's own changes leave there, and so what it
held before where the device makes no change of its own. -/
def StoresNothing (s t : State) : Prop :=
  (∀ a, Memory.holds t.mem a = Memory.holds (Memory.change (Memory.change s.mem s.move.before) s.move.after) a) ∧
  (s.move.before = [] → s.move.after = [] → ∀ a, Memory.holds t.mem a = Memory.holds s.mem a)

/-- The step stored `bs` in the first bytes of register `ra` of the device at `DEV_ADDR` and nothing elsewhere: every place
outside them holds what the device's own changes leave there, and the register holds `bs` unless the device changes it. -/
def StoresBytes (s t : State) (ra : RegAddr) (bs : List Byte) : Prop :=
  (∀ a, (a < regKey s.devAddr ra 0 ∨ regKey s.devAddr ra bs.length ≤ a) →
    Memory.holds t.mem a = Memory.holds (Memory.change (Memory.change s.mem s.move.before) s.move.after) a ∧
    (s.move.before = [] → s.move.after = [] → Memory.holds t.mem a = Memory.holds s.mem a)) ∧
  (s.move.after = [] → Memory.window t.mem s.devAddr ra bs.length = bs)

/-- The command ended in this step: its one response was delivered and `seq` is `IDLE` (R23, R91). -/
def Responds (s t : State) (st : Status) (result : Word) : Prop :=
  t.responses = s.responses ++ [⟨st, result⟩] ∧ t.seq = .idle

/-- The command goes on: no response, and `seq` is the next step. -/
def GoesOn (s t : State) (q : Seq) : Prop := t.responses = s.responses ∧ t.seq = q

/-- Exactly this event joined the trace. -/
def Logs (s t : State) (e : Event) : Prop := t.trace = s.trace ++ [e]

/-- `BUF` holds these bytes first, and its other bytes are as they were (R34; log entry 22). -/
def Buffers (s t : State) (bs : List Byte) : Prop := t.buf = bs ++ s.buf.drop bs.length

/-- A step that neither faults nor is refused. -/
def StepsSafely (s : State) : Prop := ∃ t, step s = .next t

/-- `k` steps, each to a next state. -/
def runs : Nat → State → State → Prop
  | 0, s, t => s = t
  | k + 1, s, t => ∃ u, step s = .next u ∧ runs k u t

/-- The transport's next answers: the next `k` transactions return, each scripted (R62). -/
def State.answers (s : State) (k : Nat) : Prop :=
  k ≤ s.script.length ∧ ∀ m ∈ s.script.take k, m.reply ≠ .pending

/-- The next `k` transactions meet the reference device: it stores what is written, changes nothing on its own and never
fails (R82). -/
def State.quietFor (s : State) (k : Nat) : Prop := s.script.take k = List.replicate k DevMove.quiet

/-- The events of a trace that are reads. -/
def Event.isRead : Event → Bool
  | .read _ _ _ _ => true
  | _ => false

/-- The events of a trace that are writes. -/
def Event.isWrite : Event → Bool
  | .write _ _ _ => true
  | _ => false

end Sys2Proof.Machine
end

