-- ==== Sys2Proof/Certificates/Slice0/Obligations.lean ====
section
/-! DEFINITION. The statements about the machine, in the order of OBLIGATIONS.json, and the few notions of the spec they
are written in. -/

namespace Sys2Proof.Machine

/-- The conditions of R110's `raise IllegalCommand` lines, on the bits of the two words as numbers. -/
def IllegalWord (c : Config) (cmd data : Nat) : Prop :=
  let opc := cmd / 2 ^ 28
  let width := cmd / 2 ^ 24 % 2 ^ 3
  let fw := cmd / 2 ^ 10 % 2 ^ 6
  let sb := cmd / 2 ^ 5 % 2 ^ 5
  (¬ (1 ≤ opc ∧ opc ≤ 6) ∧ ¬ (opc = 7 ∧ c.hasAlertExt = true)) ∨
  ((opc = 1 ∨ opc = 2) ∧
    (cmd % 2 ^ 5 ≠ 0 ∨ width = 0 ∨ c.wMax < width ∨ 8 * width < fw ∨ 8 * width < sb + fw)) ∨
  ((opc = 3 ∨ opc = 4) ∧ (cmd % 2 ^ 16 ≠ 0 ∨ width = 0 ∨ c.wMax < width)) ∨
  ((opc = 5 ∨ opc = 6 ∨ opc = 7) ∧ cmd % 2 ^ 28 ≠ 0) ∨
  (opc = 5 ∧ 2 ^ 7 ≤ data)

/-- The first step of the command with an opcode (R96, R110). -/
def firstStepOf (opc : Nat) : Seq :=
  if opc = 1 ∨ opc = 2 then .bfRd
  else if opc = 3 then .rawRd
  else if opc = 4 then .rawWr
  else if opc = 5 then .iId
  else if opc = 6 then .tRd
  else .aRd

/-- The successors of a step whose transaction, or delay, succeeds (R37). -/
def successors : Instr → Seq → List Seq
  | .bfWrite _ _, .bfRd => [.bfWr, .idle]
  | _, .iId => [.iSrstRd, .idle]
  | _, .iSrstRd => [.iSrstWr]
  | _, .iSrstWr => [.iModeRd]
  | _, .iModeRd => [.iModeWr]
  | _, .iModeWr => [.iPollRd]
  | _, .iPollRd => [.iPrimeRd, .iPollWait]
  | _, .iPollWait => [.iPollRd]
  | _, _ => [.idle]

/-- The reads and the writes of a command that ends `OK` (R252). -/
def transactionCounts : Instr → Nat × Nat
  | .bfWrite _ _ => (1, 1)
  | .rawWrite _ _ => (0, 1)
  | _ => (1, 0)

/-- The event with its data forgotten: which transaction it is, with which device, at which register, of how many bytes. -/
def Event.shape : Event → Event
  | .read da ra n _ => .read da ra n []
  | .readFailed da ra n _ => .readFailed da ra n 0#8
  | .write da ra bytes => .write da ra (List.replicate bytes.length 0#8)
  | .writeFailed da ra bytes _ => .writeFailed da ra (List.replicate bytes.length 0#8) 0#8
  | .delay micros => .delay micros

/-- The shape of a read of two bytes. -/
def readOf (da : BusAddr) (ra : RegAddr) : Event := .read da ra 2 []

/-- The shape of a write of two bytes. -/
def writeOf (da : BusAddr) (ra : RegAddr) : Event := .write da ra [0#8, 0#8]

/-- The shapes of `k` polls that find the data-ready bit 0, each followed by a delay. -/
def pollShapes (c : Config) (da : BusAddr) (k : Nat) : List Event :=
  (List.replicate k [readOf da 0x01#8, .delay c.pollDelay]).flatten

/-- The event is a transaction with this device, or no transaction. -/
def Event.addresses (da : BusAddr) : Event → Bool
  | .read da' _ _ _ => da' == da
  | .readFailed da' _ _ _ => da' == da
  | .write da' _ _ => da' == da
  | .writeFailed da' _ _ _ => da' == da
  | .delay _ => true

/-- Whatever the device's registers held, this move succeeds and a read of `n` bytes at `ra` then sees bytes with `P`. -/
def Shows (m : DevMove) (da : BusAddr) (ra : RegAddr) (n : Nat) (P : List Byte → Prop) : Prop :=
  m.reply = .ok ∧ ∀ mem : Memory, P (Memory.window (Memory.change mem m.before) da ra n)

/-- A failed transaction ends the command at this step, with `BusIOError` and the transport's cause and the handle as it
was (R202). The device then holds what the far side left there, which may be anything (R83): `StoresNothing` says that
the block's own bytes are stored only where the far side's move stores them, the model's reading (log entry 19). -/
def EndsOnFailure (i : Instr) (s : State) : Prop :=
  ∀ c : Cause, s.move.reply = .fail c →
    ∃ t, exec i s = .next t ∧ Responds s t .busIOError (BitVec.ofNat 32 c.toNat) ∧ t.acc = s.acc ∧
      Keeps s t ∧ StoresNothing s t

/-- The failed event of a step of a command: the transaction that step makes, with the transport's cause. -/
def failedEvent (i : Instr) (s : State) (c : Cause) : Event :=
  match i with
  | .bfRead d _ => .readFailed s.devAddr d.ra d.rw.toNat c
  | .bfWrite d _ =>
    if s.seq = .bfRd then .readFailed s.devAddr d.ra d.rw.toNat c
    else .writeFailed s.devAddr d.ra (beBytes s.acc.toNat d.rw.toNat) c
  | .rawRead d _ => .readFailed s.devAddr d.ra d.len.toNat c
  | .rawWrite d value => .writeFailed s.devAddr d.ra [BitVec.ofNat 8 (value.toNat &&& 0xFF)] c
  | .init _ =>
    if s.seq = .iId then .readFailed s.devAddr 0x0F#8 2 c
    else if s.seq = .iSrstWr ∨ s.seq = .iModeWr then .writeFailed s.devAddr 0x01#8 (beBytes s.acc.toNat 2) c
    else if s.seq = .iPrimeRd then .readFailed s.devAddr 0x00#8 2 c
    else .readFailed s.devAddr 0x01#8 2 c
  | .tempRead _ => .readFailed s.devAddr 0x00#8 2 c
  | .alertStatus _ => .readFailed s.devAddr 0x01#8 2 c

/-- Two states that differ in nothing but what `CMD`, `DATA`, `BUF` and `ACC` hold. -/
def AgreeButWorking (s s' : State) : Prop :=
  s' = { s with cmd := s'.cmd, data := s'.data, buf := s'.buf, acc := s'.acc }

/-- The host presents a command. -/
def presents (i : Instr) : HostInput := .command (encodeCmd i) (encodeData i)

end Sys2Proof.Machine

open Sys2Proof Sys2Proof.Machine

/-! ### Encoding -/

/-- Every command's words decode to it, with every operand at every value its field admits (R93 to R97, R109). -/
def Obligations.DecodeOfEncodeIsTheCommand : Prop :=
  ∀ i : Instr, decode (encode i).1 (encode i).2 = .ok i

/-- Each pair of words has one meaning: what a pair decodes to encodes back to that very pair (R93 to R97, R109). -/
def Obligations.EncodeOfDecodeIsThePair : Prop :=
  ∀ (cmd data : Word) (i : Instr), decode cmd data = .ok i → encode i = (cmd, data)

/-- A word decodes exactly when it selects a row of the match-and-mask table, and it selects at most one. That the row of
ALERT_STATUS counts under every configuration, and that the range checks come after decoding, at acceptance, is the
model's choice (log entry 12): R112 has that row only with `HAS_ALERT_EXT`, and R110 makes the checks at decode. -/
def Obligations.WordsSelectOneRow : Prop :=
  (∀ cmd data : Word, (∃ i, decode cmd data = .ok i) ↔ ∃ r ∈ opcodeRows, r.selects cmd = true) ∧
  (∀ (cmd : Word) (r r' : OpcodeRow), r ∈ opcodeRows → r' ∈ opcodeRows → r.selects cmd = true →
    r'.selects cmd = true → r = r')

/-- The words of the spec's table decode to the commands they stand for (R108; vectors E1, E3, E6, E8, E10, E11). -/
def Obligations.SampleWordsDecode : Prop :=
  decode 0x120105A0#32 0#32 = .ok (.bfRead ⟨0x01#8, 2#3, 1#6, 13#5, false⟩ 0#32) ∧
  decode 0x22010940#32 3#32 = .ok (.bfWrite ⟨0x01#8, 2#3, 2#6, 10#5, false⟩ 3#32) ∧
  decode 0x320F0000#32 0#32 = .ok (.rawRead ⟨0x0F#8, false, 2#3⟩ 0#32) ∧
  decode 0x4A070000#32 0x1234#32 = .ok (.rawWrite ⟨0x07#8, true, 2#3⟩ 0x1234#32) ∧
  decode 0x50000000#32 0x48#32 = .ok (.init 0x48#32) ∧
  decode 0x60000000#32 0#32 = .ok (.tempRead 0#32)

/-- The assembler's sum of shifts is the encoder's word, for every format and every operand (R107). -/
def Obligations.AssemblerGivesTheEncodedWords : Prop :=
  ∀ (c : Config) (d : BitField) (r : RawRegister) (v : Word),
    assemble c (.bfRead d.ra.toNat d.rw.toNat d.sb.toNat d.fw.toNat d.lsbf) = some (encode (.bfRead d 0#32)) ∧
    assemble c (.bfWrite d.ra.toNat d.rw.toNat d.sb.toNat d.fw.toNat d.lsbf v.toNat) = some (encode (.bfWrite d v)) ∧
    assemble c (.rawRead r.ra.toNat r.len.toNat r.sgn) = some (encode (.rawRead r 0#32)) ∧
    assemble c (.rawWrite r.ra.toNat r.len.toNat r.sgn v.toNat) = some (encode (.rawWrite r v)) ∧
    assemble c (.init v.toNat) = some (encode (.init v)) ∧
    assemble c .tempRead = some (encode (.tempRead 0#32)) ∧
    assemble c .alertStatus = some (encode (.alertStatus 0#32))

/-- The words of the pseudo-instructions, with the parameters this hardware takes (R108). -/
def Obligations.PseudoInstructionWords : Prop :=
  assemble Config.baseline .getDrdy = some (0x120105A0#32, 0#32) ∧
  assemble Config.baseline .getMode = some (0x12010940#32, 0#32) ∧
  (∀ m : Word, assemble Config.baseline (.setMode m.toNat) = some (0x22010940#32, m)) ∧
  assemble Config.baseline .getSrst = some (0x12010420#32, 0#32) ∧
  assemble Config.baseline .softReset = some (0x22010420#32, 1#32) ∧
  assemble Config.baseline .readId = some (0x320F0000#32, 0#32) ∧
  assemble Config.baseline .readTempRaw = some (0x3A000000#32, 0#32) ∧
  assemble Config.baseline .initDefault = some (0x50000000#32, 0x48#32)

/-! ### Arithmetic -/

/-- The folds are the sums of R21, `be_bytes` gives the bytes R21 says, and `fold_msb` and `be_bytes` are inverse. -/
def Obligations.FoldsAreTheSums : Prop :=
  (∀ bs : List Byte,
    foldMsb bs = ∑ i : Fin bs.length, (bs[i].toNat <<< (8 * (bs.length - 1 - i))) ∧
    foldLsb bs = ∑ i : Fin bs.length, (bs[i].toNat <<< (8 * i.val)) ∧
    fold true bs = foldLsb bs ∧ fold false bs = foldMsb bs ∧
    beBytes (foldMsb bs) bs.length = bs) ∧
  (∀ v n : Nat, v < 2 ^ (8 * n) → foldMsb (beBytes v n) = v ∧ (beBytes v n).length = n ∧
    ∀ i, i < n → (beBytes v n)[i]? = some (BitVec.ofNat 8 ((v >>> (8 * (n - 1 - i))) &&& 0xFF)))

/-- A whole register's value: the unsigned number, or the two's complement one (R143). -/
def Obligations.ScalarsAreTwosComplement : Prop :=
  (∀ (d : RawRegister) (u : Nat), 1 ≤ d.len.toNat → d.len.toNat ≤ 4 → u < 2 ^ (8 * d.len.toNat) →
    (d.sgn = false → (scalarOf d u).toNat = u) ∧
    (d.sgn = true → (scalarOf d u).toInt =
      if 2 ^ (8 * d.len.toNat - 1) ≤ u then (u : Int) - 2 ^ (8 * d.len.toNat) else u)) ∧
  (∀ (ra : RegAddr) (b0 b1 : Byte),
    (scalarOf ⟨ra, false, 2#3⟩ (foldMsb [b0, b1])).toInt = 256 * b0.toNat + b1.toNat ∧
    (scalarOf ⟨ra, true, 2#3⟩ (foldMsb [b0, b1])).toInt =
      if 0x80 ≤ b0.toNat then (256 * b0.toNat + b1.toNat : Int) - 65536 else 256 * b0.toNat + b1.toNat)

/-- The temperature a result stands for: `raw / 128`, its range, its whole degrees and its fraction (R172). -/
def Obligations.TemperatureIsFixedPoint : Prop :=
  ∀ b0 b1 : Byte,
    let result := scalarOf descTemp (foldMsb [b0, b1])
    temperature result = (signed (foldMsb [b0, b1]) 16 : Rat) * (0.0078125 : Rat) ∧
    -256 ≤ temperature result ∧ temperature result ≤ 255.9921875 ∧
    ⌊temperature result⌋ = temperatureFloor result ∧
    temperature result = (temperatureFloor result : Rat) + (temperatureFraction result : Rat) / 128

/-- Inserting a value: the field's bits are cleared, the value's bits are OR-ed in wherever they fall, so that a value too
wide for the field can set bits above it and clear none; it leaves the window exactly when `value >= 2^(8*rw - sb)`
(R122, R126). -/
def Obligations.WideValuesSetNeighbours : Prop :=
  (∀ (d : BitField) (reg value k : Nat), (insertField d reg value).testBit k =
    ((reg.testBit k && !(decide (d.sb.toNat ≤ k) && decide (k < d.sb.toNat + d.fw.toNat))) ||
      (decide (d.sb.toNat ≤ k) && value.testBit (k - d.sb.toNat)))) ∧
  (∀ (d : BitField) (reg value : Nat), d.sb.toNat + d.fw.toNat ≤ 8 * d.rw.toNat → reg < 2 ^ (8 * d.rw.toNat) →
    (fieldOverflows d (insertField d reg value) = true ↔ 2 ^ (8 * d.rw.toNat - d.sb.toNat) ≤ value))

/-- The status codes; no other is ever produced (R99). -/
def Obligations.StatusCodes : Prop :=
  Status.ok.code = 0#4 ∧ Status.deviceNotFound.code = 1#4 ∧ Status.busIOError.code = 2#4 ∧
  Status.illegalCommand.code = 3#4 ∧ Status.notReady.code = 4#4 ∧ Status.valueOverflow.code = 5#4 ∧
  ∀ st : Status, st.code.toNat < 6

/-- The five descriptors of the register map with the parameters this hardware takes, their masks, and the three named modes
(R43 to R48). -/
def Obligations.DescriptorConstants : Prop :=
  descDrdy Config.baseline = ⟨0x01#8, 2#3, 1#6, 13#5, false⟩ ∧ maskOf (descDrdy Config.baseline) = 0x2000 ∧
  descMode Config.baseline = ⟨0x01#8, 2#3, 2#6, 10#5, false⟩ ∧ maskOf (descMode Config.baseline) = 0x0C00 ∧
  descSrst Config.baseline = ⟨0x01#8, 2#3, 1#6, 1#5, false⟩ ∧ maskOf (descSrst Config.baseline) = 0x0002 ∧
  descWhoAmI = ⟨0x0F#8, false, 2#3⟩ ∧ descTemp = ⟨0x00#8, true, 2#3⟩ ∧
  modeContinuous = 0b00 ∧ modeOneshot = 0b11 ∧ modeShutdown = 0b01

/-! ### Reset -/

/-- The values the spec gives for reset, at power-on and at a reset of the running block, which delivers no response and
does not touch the device (R56). The values of `BUF`, `ACC`, `CMD` and `DATA` are the model's choice (log entry 2), and
nothing is stated about them. -/
def Obligations.ResetValues : Prop :=
  (State.reset.seq = .idle ∧ State.reset.inited = false ∧ State.reset.devAddr = 0x48#7 ∧ State.reset.responses = []) ∧
  (∀ (s : State) (rest : List HostInput), s.cfg = Config.baseline → s.inbox = .reset :: rest →
    ∃ t, step s = .next t ∧ t.seq = .idle ∧ t.inited = false ∧ t.devAddr = 0x48#7 ∧ t.responses = s.responses ∧
      ∀ a, Memory.holds t.mem a = Memory.holds s.mem a)

/-- The block's reset, whatever the block was doing: no response, no transaction, the device untouched (R230). -/
def Obligations.BlockResetFromAnyState : Prop :=
  ∀ (s : State) (rest : List HostInput), s.inbox = .reset :: rest →
    ∃ t, step s = .next t ∧ t.seq = .idle ∧ t.inited = false ∧ t.devAddr = s.cfg.defaultAddr ∧ t.inbox = rest ∧
      t.responses = s.responses ∧ t.trace = s.trace ∧ t.mem = s.mem ∧ t.script = s.script ∧ t.freeIdx = s.freeIdx ∧
      t.cfg = s.cfg

/-! ### A step, and the acceptance of a command -/

/-- A step runs the decoded command: in `IDLE` the one presented, else the one in the latches, where the host's `pass` is
used up and a presented command waits. -/
def Obligations.StepRunsTheDecodedCommand : Prop :=
  (∀ (s : State) (cmd data : Word) (rest : List HostInput) (i : Instr),
    s.seq = .idle → s.inbox = .command cmd data :: rest → decode cmd data = .ok i →
    step s = exec i { s with inbox := rest }) ∧
  (∀ (s : State) (i : Instr), s.seq ≠ .idle → s.inbox.head? ≠ some .reset → decode s.cmd s.data = .ok i →
    step s = exec i { s with inbox := if s.inbox.head? = some .pass then s.inbox.tail else s.inbox })

/-- The outcome of decode for every pair of words, in the order of R110: `IllegalCommand`, then `NotReady`, and neither
changes any state of the block; else the command is latched and `seq` is its first step. -/
def Obligations.DecodeOutcomesInOrder : Prop :=
  ∀ (s : State) (cmd data : Word) (rest : List HostInput),
    s.cfg.wMax ≤ 4 → s.seq = .idle → s.inbox = .command cmd data :: rest →
    (IllegalWord s.cfg cmd.toNat data.toNat →
      step s = .next { s with inbox := rest, responses := s.responses ++ [⟨.illegalCommand, 0#32⟩] }) ∧
    (¬ IllegalWord s.cfg cmd.toNat data.toNat → cmd.toNat / 2 ^ 28 ≠ 5 → s.inited = false →
      step s = .next { s with inbox := rest, responses := s.responses ++ [⟨.notReady, 0#32⟩] }) ∧
    (¬ IllegalWord s.cfg cmd.toNat data.toNat → cmd.toNat / 2 ^ 28 ≠ 5 → s.inited = true →
      step s = .next { s with
        inbox := rest, cmd := cmd, data := data, seq := firstStepOf (cmd.toNat / 2 ^ 28) }) ∧
    (¬ IllegalWord s.cfg cmd.toNat data.toNat → cmd.toNat / 2 ^ 28 = 5 →
      step s = .next { s with
        inbox := rest, cmd := cmd, data := data, seq := .iId, inited := false,
        devAddr := BitVec.ofNat 7 data.toNat })

/-- A presented command waits while another is in progress, and `IDLE` with none presented stays as it is (R92, R231). -/
def Obligations.CommandsDoNotOverlap : Prop :=
  (∀ (s t : State) (cmd data : Word) (rest : List HostInput), s.seq ≠ .idle → s.inbox = .command cmd data :: rest →
    step s = .next t → t.inbox = s.inbox ∧ t.cmd = s.cmd ∧ t.data = s.data) ∧
  (∀ s : State, s.seq = .idle → s.inbox = [] → step s = .next s)

/-- A refusal at decode changes no state of the block and performs no transaction (R204, R205, R209). -/
def Obligations.RefusalsChangeNothing : Prop :=
  ∀ (i : Instr) (s : State), s.seq = .idle →
    (Instr.legal s.cfg i = false →
      exec i s = .next { s with responses := s.responses ++ [⟨.illegalCommand, 0#32⟩] }) ∧
    (Instr.legal s.cfg i = true → (∀ addr, i ≠ .init addr) → s.inited = false →
      exec i s = .next { s with responses := s.responses ++ [⟨.notReady, 0#32⟩] })

/-- An accepted command other than INIT is latched and `seq` is its first step; nothing else changes (R92, R110). -/
def Obligations.AcceptedCommandsStart : Prop :=
  ∀ (i : Instr) (s : State), s.seq = .idle → (∀ addr, i ≠ .init addr) → s.inited = true →
    Instr.legal s.cfg i = true →
    exec i s = .next { s with cmd := (encode i).1, data := (encode i).2, seq := firstStepOf ((encode i).1.toNat / 2 ^ 28) }

/-- INIT's acceptance, with or without a handle: the old handle is gone, the address is the operand's (R161, R176). -/
def Obligations.InitAcceptanceOpensTheHandle : Prop :=
  ∀ (addr : Word) (s : State), s.seq = .idle → addr.toNat < 2 ^ 7 →
    ∃ t, exec (.init addr) s = .next t ∧ t.inited = false ∧ t.devAddr.toNat = addr.toNat ∧ t.seq = .iId ∧
      t.cmd = 0x50000000#32 ∧ t.data = addr ∧ t.responses = s.responses ∧ t.trace = s.trace ∧ t.mem = s.mem ∧
      t.buf = s.buf ∧ t.acc = s.acc ∧ t.cfg = s.cfg ∧ t.inbox = s.inbox ∧ t.script = s.script ∧ t.freeIdx = s.freeIdx

/-! ### The commands -/

/-- BF_READ completes: `(acc & mask) >> sb` of the folded window, one read, nothing written; a failed read ends it (R121). -/
def Obligations.BfReadReturnsTheField : Prop :=
  ∀ (d : BitField) (data : Word) (s : State), s.seq = .bfRd →
    (s.move.reply = .ok →
      let bytes := s.sees d.ra d.rw.toNat
      let acc := fold d.lsbf bytes
      let v := (acc &&& (((1 <<< d.fw.toNat) - 1) <<< d.sb.toNat)) >>> d.sb.toNat
      v < 2 ^ d.fw.toNat ∧
      ∃ t, exec (.bfRead d data) s = .next t ∧ Responds s t .ok (BitVec.ofNat 32 v) ∧
        Logs s t (.read s.devAddr d.ra d.rw.toNat bytes) ∧ Buffers s t bytes ∧ t.acc = BitVec.ofNat 32 acc ∧
        Keeps s t ∧ StoresNothing s t) ∧
    EndsOnFailure (.bfRead d data) s

/-- BF_WRITE: the read half modifies the window, or raises `ValueOverflow` and writes nothing; the write half sends it
most significant byte first, whatever `lsbf` is, and completes; a failure at either ends it (R122). What a failed write
leaves in the device is the far side's move alone, the model's reading (log entry 19). -/
def Obligations.BfWriteReadsModifiesWrites : Prop :=
  ∀ (d : BitField) (value : Word) (s : State), d.legal s.cfg = true →
    (s.seq = .bfRd →
      (s.move.reply = .ok →
        let bytes := s.sees d.ra d.rw.toNat
        let reg := clearBits (fold d.lsbf bytes) (((1 <<< d.fw.toNat) - 1) <<< d.sb.toNat) |||
          (value.toNat <<< d.sb.toNat)
        ∃ t, exec (.bfWrite d value) s = .next t ∧ Logs s t (.read s.devAddr d.ra d.rw.toNat bytes) ∧
          Buffers s t bytes ∧ Keeps s t ∧ StoresNothing s t ∧
          (reg < 2 ^ (8 * d.rw.toNat) → GoesOn s t .bfWr ∧ t.acc.toNat = reg) ∧
          (2 ^ (8 * d.rw.toNat) ≤ reg → Responds s t .valueOverflow 0#32)) ∧
      EndsOnFailure (.bfWrite d value) s) ∧
    (s.seq = .bfWr →
      (s.move.reply = .ok →
        let bytes := beBytes s.acc.toNat d.rw.toNat
        ∃ t, exec (.bfWrite d value) s = .next t ∧ Responds s t .ok 0#32 ∧
          Logs s t (.write s.devAddr d.ra bytes) ∧ Buffers s t bytes ∧ t.acc = s.acc ∧ Keeps s t ∧
          StoresBytes s t d.ra bytes) ∧
      EndsOnFailure (.bfWrite d value) s)

/-- RAW_READ completes: the whole register, most significant byte first, unsigned or two's complement; a failed read ends
it (R141). -/
def Obligations.RawReadReturnsTheScalar : Prop :=
  ∀ (d : RawRegister) (data : Word) (s : State), s.seq = .rawRd → d.legal s.cfg = true →
    (s.move.reply = .ok →
      let bytes := s.sees d.ra d.len.toNat
      let u := foldMsb bytes
      ∃ t result, exec (.rawRead d data) s = .next t ∧ Responds s t .ok result ∧
        (d.sgn = true → result.toInt =
          if 2 ^ (8 * d.len.toNat - 1) ≤ u then (u : Int) - 2 ^ (8 * d.len.toNat) else u) ∧
        (d.sgn = false → result.toNat = u) ∧
        Logs s t (.read s.devAddr d.ra d.len.toNat bytes) ∧ Buffers s t bytes ∧ t.acc.toNat = u ∧ Keeps s t ∧
        StoresNothing s t) ∧
    EndsOnFailure (.rawRead d data) s

/-- RAW_WRITE completes: one write of one byte, the low byte of the value, whatever the declared length, and no read; a
failed write ends it (R142). What a failed write leaves in the device is the far side's move alone, the model's reading
(log entry 19). -/
def Obligations.RawWriteSendsOneByte : Prop :=
  ∀ (d : RawRegister) (value : Word) (s : State), s.seq = .rawWr →
    (s.move.reply = .ok →
      let bytes := [BitVec.ofNat 8 (value.toNat &&& 0xFF)]
      ∃ t, exec (.rawWrite d value) s = .next t ∧ Responds s t .ok 0#32 ∧ Logs s t (.write s.devAddr d.ra bytes) ∧
        Buffers s t bytes ∧ t.acc = s.acc ∧ Keeps s t ∧ StoresBytes s t d.ra bytes) ∧
    EndsOnFailure (.rawWrite d value) s

/-- INIT phase 1: one read of the identity, and nothing more where it differs or fails (R162). -/
def Obligations.InitChecksTheIdentity : Prop :=
  ∀ (addr : Word) (s : State), s.seq = .iId →
    (s.move.reply = .ok →
      let bytes := s.sees 0x0F#8 2
      ∃ t, exec (.init addr) s = .next t ∧ Logs s t (.read s.devAddr 0x0F#8 2 bytes) ∧ Buffers s t bytes ∧ Keeps s t ∧
        StoresNothing s t ∧ t.acc.toNat = foldMsb bytes ∧
        (foldMsb bytes = s.cfg.idExpect.toNat → GoesOn s t .iSrstRd) ∧
        (foldMsb bytes ≠ s.cfg.idExpect.toNat → Responds s t .deviceNotFound 0#32)) ∧
    EndsOnFailure (.init addr) s

/-- INIT phase 2: the soft-reset bit is set and every other bit of CONFIGURATION kept as read; then two bytes are written,
most significant first, and INIT goes on at once to phase 3 (R163). What a failed write leaves in the device is the far
side's move alone, the model's reading (log entry 19). -/
def Obligations.InitRequestsTheSoftReset : Prop :=
  ∀ (addr : Word) (s : State), s.cfg.wf = true →
    (s.seq = .iSrstRd →
      (s.move.reply = .ok →
        let bytes := s.sees 0x01#8 2
        ∃ t, exec (.init addr) s = .next t ∧ GoesOn s t .iSrstWr ∧
          t.acc.toNat = clearBits (foldMsb bytes) (1 <<< s.cfg.srstSb.toNat) ||| (1 <<< s.cfg.srstSb.toNat) ∧
          Logs s t (.read s.devAddr 0x01#8 2 bytes) ∧ Buffers s t bytes ∧ Keeps s t ∧ StoresNothing s t) ∧
      EndsOnFailure (.init addr) s) ∧
    (s.seq = .iSrstWr →
      (s.move.reply = .ok →
        let bytes := beBytes s.acc.toNat 2
        ∃ t, exec (.init addr) s = .next t ∧ GoesOn s t .iModeRd ∧ Logs s t (.write s.devAddr 0x01#8 bytes) ∧
          Buffers s t bytes ∧ t.acc = s.acc ∧ Keeps s t ∧ StoresBytes s t 0x01#8 bytes) ∧
      EndsOnFailure (.init addr) s)

/-- INIT phase 3: the mode field is cleared to continuous conversion and every other bit of CONFIGURATION kept as read; then
two bytes are written, most significant first, whatever the field was, and the first poll follows (R164). What a failed
write leaves in the device is the far side's move alone, the model's reading (log entry 19). -/
def Obligations.InitSetsContinuousConversion : Prop :=
  ∀ (addr : Word) (s : State), s.cfg.wf = true →
    (s.seq = .iModeRd →
      (s.move.reply = .ok →
        let bytes := s.sees 0x01#8 2
        ∃ t, exec (.init addr) s = .next t ∧ GoesOn s t .iModeWr ∧
          t.acc.toNat = clearBits (foldMsb bytes) (0b11 <<< s.cfg.modeSb.toNat) ∧
          Logs s t (.read s.devAddr 0x01#8 2 bytes) ∧ Buffers s t bytes ∧ Keeps s t ∧ StoresNothing s t) ∧
      EndsOnFailure (.init addr) s) ∧
    (s.seq = .iModeWr →
      (s.move.reply = .ok →
        let bytes := beBytes s.acc.toNat 2
        ∃ t, exec (.init addr) s = .next t ∧ GoesOn s t .iPollRd ∧ Logs s t (.write s.devAddr 0x01#8 bytes) ∧
          Buffers s t bytes ∧ t.acc = s.acc ∧ Keeps s t ∧ StoresBytes s t 0x01#8 bytes) ∧
      EndsOnFailure (.init addr) s)

/-- INIT phase 4: one poll read, then the priming read or one delay, by the data-ready bit; after the delay, the next poll
read (R165). -/
def Obligations.InitPollsDataReady : Prop :=
  (∀ (addr : Word) (s : State), s.seq = .iPollRd →
    (s.move.reply = .ok →
      let bytes := s.sees 0x01#8 2
      ∃ t, exec (.init addr) s = .next t ∧
        GoesOn s t (if (foldMsb bytes >>> s.cfg.drdySb.toNat) % 2 = 1 then .iPrimeRd else .iPollWait) ∧
        Logs s t (.read s.devAddr 0x01#8 2 bytes) ∧ Buffers s t bytes ∧ t.acc.toNat = foldMsb bytes ∧ Keeps s t ∧
        StoresNothing s t) ∧
    EndsOnFailure (.init addr) s) ∧
  (∀ (addr : Word) (s : State), s.seq = .iPollWait →
    exec (.init addr) s = .next { s with seq := .iPollRd, trace := s.trace ++ [.delay s.cfg.pollDelay] })

/-- INIT completes: the priming read's value is dropped, `INITED` is set, the response is `OK`; a failed read leaves
`INITED` as it was (R168). That the read loads `BUF` and leaves `ACC` is the model's reading (log entry 22): R167 says
that it changes no state of the block. -/
def Obligations.InitCompletesAfterThePrimingRead : Prop :=
  ∀ (addr : Word) (s : State), s.seq = .iPrimeRd →
    (s.move.reply = .ok →
      let bytes := s.sees 0x00#8 2
      ∃ t, exec (.init addr) s = .next t ∧ t.inited = true ∧ Responds s t .ok 0#32 ∧
        Logs s t (.read s.devAddr 0x00#8 2 bytes) ∧ Buffers s t bytes ∧ t.acc = s.acc ∧ t.cfg = s.cfg ∧
        t.devAddr = s.devAddr ∧ t.cmd = s.cmd ∧ t.data = s.data ∧ t.inbox = s.inbox ∧ t.script = s.script.tail ∧
        t.freeIdx = s.freeIdx + 1 ∧ StoresNothing s t) ∧
    EndsOnFailure (.init addr) s

/-- TEMP_READ completes: the signed 16-bit register, sign-extended; one read of two bytes, no look at data-ready; a failed
read ends it (R171). -/
def Obligations.TempReadReturnsTheRawTemperature : Prop :=
  ∀ (data : Word) (s : State), s.seq = .tRd →
    (s.move.reply = .ok →
      let bytes := s.sees 0x00#8 2
      let u := foldMsb bytes
      ∃ t result, exec (.tempRead data) s = .next t ∧ Responds s t .ok result ∧
        result.toInt = (if 0x8000 ≤ u then (u : Int) - 0x10000 else u) ∧
        Logs s t (.read s.devAddr 0x00#8 2 bytes) ∧ Buffers s t bytes ∧ t.acc.toNat = u ∧ Keeps s t ∧
        StoresNothing s t) ∧
    EndsOnFailure (.tempRead data) s

/-- ALERT_STATUS completes: bit 1 the high-alert flag, bit 0 the low-alert flag, from one read of CONFIGURATION (R175).
The bit positions are parameters, and their values 15 and 14 are PRESUMED (log entry 16). -/
def Obligations.AlertStatusReturnsTheFlags : Prop :=
  ∀ (data : Word) (s : State), s.seq = .aRd →
    (s.move.reply = .ok →
      let bytes := s.sees 0x01#8 2
      let cfg := foldMsb bytes
      ∃ t, exec (.alertStatus data) s = .next t ∧
        Responds s t .ok
          (BitVec.ofNat 32 (2 * (cfg / 2 ^ s.cfg.alertHighSb.toNat % 2) + cfg / 2 ^ s.cfg.alertLowSb.toNat % 2)) ∧
        Logs s t (.read s.devAddr 0x01#8 2 bytes) ∧ Buffers s t bytes ∧ t.acc.toNat = cfg ∧ Keeps s t ∧
        StoresNothing s t) ∧
    EndsOnFailure (.alertStatus data) s

/-! ### Errors of the transport -/

/-- A failed transaction ends any command, at any of its steps, with `BusIOError` and the transport's cause unchanged; it is
not retried (R202). Two clauses are the model's reading: the device then holds what the far side's move left there (log
entry 19), and `BUF` is kept by a failed read and loaded by a failed write, `ACC` kept by both (log entry 22). Which
transaction failed is said by `FailedTransactionsAreTheStepsOwn`. -/
def Obligations.TransportFailuresEndTheCommand : Prop :=
  ∀ (i : Instr) (s : State) (c : Cause), hasStep i s.seq = true → s.seq ≠ .iPollWait → s.move.reply = .fail c →
    ∃ t, exec i s = .next t ∧ Responds s t .busIOError (BitVec.ofNat 32 c.toNat) ∧ t.acc = s.acc ∧ Keeps s t ∧
      StoresNothing s t ∧
      ((∃ ra n, Logs s t (.readFailed s.devAddr ra n c) ∧ t.buf = s.buf) ∨
        (∃ ra bytes, Logs s t (.writeFailed s.devAddr ra bytes c) ∧ Buffers s t bytes))

/-- While the transport has not returned, the block waits at its step: no response, no event (R248). A write loads `BUF`
first (log entry 22). -/
def Obligations.TheBlockWaitsForTheTransport : Prop :=
  ∀ (i : Instr) (s : State), hasStep i s.seq = true → s.seq ≠ .iPollWait → s.move.reply = .pending →
    ∃ t, exec i s = .next t ∧ GoesOn s t s.seq ∧ t.trace = s.trace ∧ t.acc = s.acc ∧ Keeps s t ∧ StoresNothing s t

/-! ### Invariants and rules of the whole machine -/

/-- The state after reset meets the invariant, under every configuration the rules speak about. -/
def Obligations.ResetMeetsTheInvariant : Prop :=
  State.reset.Inv ∧ ∀ c : Config, c.wf = true → (State.resetWith c).Inv

/-- Every step keeps the invariant: the canonical register space, the sizes of `BUF` and `ACC`, and a command in progress
that is the latched, legal one, at a step of its own, with `INITED` and `DEV_ADDR` as its acceptance left them. -/
def Obligations.EveryStepKeepsTheInvariant : Prop :=
  ∀ s t : State, s.Inv → step s = .next t → t.Inv

/-- No state that meets the invariant stops: every pair of words the host presents has an outcome, and so has every
answer of the transport (R110, R62). -/
def Obligations.InvariantStatesNeverStop : Prop := ∀ s : State, s.Inv → StepsSafely s

/-- The successor of each step: the table of R37; `IDLE` from every step whose transaction fails; the step itself while the
transport has not returned. -/
def Obligations.SequencerFollowsTheTable : Prop :=
  ∀ (s t : State) (i : Instr), s.cfg.wf = true → s.seq ≠ .idle → s.inbox.head? ≠ some .reset →
    decode s.cmd s.data = .ok i → step s = .next t →
    (s.seq = .iPollWait ∨ s.move.reply = .ok → t.seq ∈ successors i s.seq) ∧
    (s.seq ≠ .iPollWait → (∃ c, s.move.reply = .fail c) → t.seq = .idle) ∧
    (s.seq ≠ .iPollWait → s.move.reply = .pending → t.seq = s.seq)

/-- Who writes what: `DEV_ADDR` only INIT's acceptance; `INITED` only INIT's acceptance, which clears it, and INIT's
completion with `OK`, which sets it; `CMD` and `DATA` only an acceptance; the parameters nothing. The block's reset aside
(R31, R32, R35, R40, R57). -/
def Obligations.RegistersAreWrittenByTheirWriters : Prop :=
  ∀ s t : State, s.inbox.head? ≠ some .reset → step s = .next t →
    t.cfg = s.cfg ∧
    (t.devAddr ≠ s.devAddr → s.seq = .idle ∧ t.seq = .iId) ∧
    (t.inited ≠ s.inited →
      (t.inited = false ∧ s.seq = .idle ∧ t.seq = .iId) ∨
      (t.inited = true ∧ s.seq = .iPrimeRd ∧ Responds s t .ok 0#32)) ∧
    (t.cmd ≠ s.cmd ∨ t.data ≠ s.data → s.seq = .idle ∧ t.seq ≠ .idle)

/-- The trace only grows, by at most one event a step and by none in `IDLE`; every transaction is with the device at
`DEV_ADDR` (R76, R54). -/
def Obligations.OneTransactionAtATime : Prop :=
  ∀ s t : State, step s = .next t →
    ∃ events, t.trace = s.trace ++ events ∧ events.length ≤ 1 ∧ (s.seq = .idle → events = []) ∧
      ∀ e ∈ events, e.addresses s.devAddr = true

/-- One response for each command: a step delivers at most one, and then the block is in `IDLE`; a command in progress ends
exactly when it delivers one. The block's reset aside (R91, R200, R230). -/
def Obligations.OneResponseForEachCommand : Prop :=
  ∀ s t : State, s.inbox.head? ≠ some .reset → step s = .next t →
    (t.responses = s.responses ∨ ∃ r, t.responses = s.responses ++ [r] ∧ t.seq = .idle) ∧
    (s.seq ≠ .idle → (t.seq = .idle ↔ ∃ r, t.responses = s.responses ++ [r]))

/-- Nothing depends on what a previous command left in `CMD`, `DATA`, `BUF` or `ACC`: from two `IDLE` states that differ
in these only, every run shows the same responses, the same trace and the same device (R34, R35). -/
def Obligations.WorkingRegistersCarryNothingOver : Prop :=
  ∀ (k : Nat) (s s' t : State), s.seq = .idle → AgreeButWorking s s' → runs k s t →
    ∃ t', runs k s' t' ∧ t'.responses = t.responses ∧ t'.trace = t.trace ∧ t'.mem = t.mem ∧ t'.seq = t.seq ∧
      t'.inited = t.inited ∧ t'.devAddr = t.devAddr ∧ t'.inbox = t.inbox

/-! ### Whole commands -/

/-- Round trip, against the reference device, for `lsbf` = 0 or one byte: BF_WRITE of a value in range and then BF_READ
with the same descriptor gives the value (R123). -/
def Obligations.BitFieldRoundTrip : Prop :=
  ∀ (d : BitField) (v data : Word) (s : State),
    d.legal s.cfg = true → (d.lsbf = false ∨ d.rw = 1#3) → v.toNat < 2 ^ d.fw.toNat →
    s.seq = .idle → s.inited = true → s.inbox = [presents (.bfWrite d v), presents (.bfRead d data)] → s.quietFor 3 →
    ∃ t, runs 5 s t ∧ t.seq = .idle ∧ t.responses = s.responses ++ [⟨.ok, 0#32⟩, ⟨.ok, v⟩]

/-- Preservation, under the same premises: after BF_WRITE the window is `(old & ~m) | (v << sb)` (R124), and no byte outside
the window has changed. The second clause is not in R124: it is the reference device's (R82) with registers that share no
bytes (R75), eight places a register, which is the model's choice (log entry 18). -/
def Obligations.BfWritePreservesTheRest : Prop :=
  ∀ (d : BitField) (v : Word) (s : State),
    d.legal s.cfg = true → (d.lsbf = false ∨ d.rw = 1#3) → v.toNat < 2 ^ d.fw.toNat →
    s.seq = .idle → s.inited = true → s.inbox = [presents (.bfWrite d v)] → s.quietFor 2 →
    ∃ t, runs 3 s t ∧ Responds s t .ok 0#32 ∧
      foldMsb (Memory.window t.mem s.devAddr d.ra d.rw.toNat) =
        clearBits (foldMsb (Memory.window s.mem s.devAddr d.ra d.rw.toNat)) (fieldMask d.fw.toNat d.sb.toNat) |||
          (v.toNat <<< d.sb.toNat) ∧
      ∀ a, (a < regKey s.devAddr d.ra 0 ∨ regKey s.devAddr d.ra d.rw.toNat ≤ a) →
        Memory.holds t.mem a = Memory.holds s.mem a

/-- The byte-order asymmetry, against the reference device: with `lsbf` = 1 on two bytes, BF_WRITE of the value the field
already has exchanges the window's bytes (R125). -/
def Obligations.LsbFirstWriteExchangesTheBytes : Prop :=
  ∀ (d : BitField) (v : Word) (b0 b1 : Byte) (s : State),
    d.legal s.cfg = true → d.lsbf = true → d.rw = 2#3 →
    s.seq = .idle → s.inited = true → s.inbox = [presents (.bfWrite d v)] → s.quietFor 2 →
    Memory.window s.mem s.devAddr d.ra 2 = [b0, b1] →
    v.toNat = extractField d (256 * b1.toNat + b0.toNat) →
    ∃ t, runs 3 s t ∧ Responds s t .ok 0#32 ∧ Memory.window t.mem s.devAddr d.ra 2 = [b1, b0]

/-- Every accepted command other than INIT responds within three steps and two transactions, whatever the device answers,
if the transport returns; and where it ends `OK`, with the transactions of R252 (R78, R127, R145, R252). -/
def Obligations.CommandsOtherThanInitRespond : Prop :=
  ∀ (i : Instr) (s : State), (∀ addr, i ≠ .init addr) → Instr.legal s.cfg i = true →
    s.seq = .idle → s.inited = true → s.inbox = [presents i] → s.answers 2 →
    ∃ k t st result events, k ≤ 3 ∧ runs k s t ∧ Responds s t st result ∧ t.trace = s.trace ++ events ∧
      1 ≤ events.length ∧ events.length ≤ 2 ∧
      (st = .ok → (events.countP Event.isRead, events.countP Event.isWrite) = transactionCounts i ∧
        events.length = (transactionCounts i).1 + (transactionCounts i).2)

/-- INIT against a device that shows the identity and reports not-ready for `N` polls and then ready: it completes `OK`
with exactly the transactions and delays of R170, in their order: `N + 5` reads and 2 writes, every one of two bytes, and
`N` delays (R165, R168, R170). -/
def Obligations.InitCompletesAfterNotReadyPolls : Prop :=
  ∀ (addr : Word) (s : State) (m0 m1 m2 m3 m4 ready prime : DevMove) (polls rest : List DevMove),
    let da := BitVec.ofNat 7 addr.toNat
    s.cfg.wf = true → addr.toNat < 2 ^ 7 → s.seq = .idle → s.inbox = [presents (.init addr)] →
    s.script = [m0, m1, m2, m3, m4] ++ polls ++ [ready, prime] ++ rest →
    Shows m0 da 0x0F#8 2 (fun bytes => foldMsb bytes = s.cfg.idExpect.toNat) →
    m1.reply = .ok → m2.reply = .ok → m3.reply = .ok → m4.reply = .ok → prime.reply = .ok →
    (∀ m ∈ polls, Shows m da 0x01#8 2 (fun bytes => (foldMsb bytes >>> s.cfg.drdySb.toNat) % 2 = 0)) →
    Shows ready da 0x01#8 2 (fun bytes => (foldMsb bytes >>> s.cfg.drdySb.toNat) % 2 = 1) →
    ∃ t events, runs (2 * polls.length + 8) s t ∧ Responds s t .ok 0#32 ∧ t.inited = true ∧ t.devAddr = da ∧
      t.trace = s.trace ++ events ∧
      events.map Event.shape =
        [readOf da 0x0F#8, readOf da 0x01#8, writeOf da 0x01#8, readOf da 0x01#8, writeOf da 0x01#8] ++
          pollShapes s.cfg da polls.length ++ [readOf da 0x01#8, readOf da 0x00#8]

/-- The poll has no bound: while the device keeps answering with the data-ready bit 0, INIT polls and waits, for any number
of rounds; it gives no response and accepts no command (R166, R203, R242). -/
def Obligations.InitPollHasNoBound : Prop :=
  ∀ (k : Nat) (addr : Word) (s : State), s.seq = .iPollRd → decode s.cmd s.data = .ok (.init addr) →
    s.inbox.head? ≠ some .reset → s.inbox.head? ≠ some .pass → k ≤ s.script.length →
    (∀ m ∈ s.script.take k,
      Shows m s.devAddr 0x01#8 2 (fun bytes => (foldMsb bytes >>> s.cfg.drdySb.toNat) % 2 = 0)) →
    ∃ t events, runs (2 * k) s t ∧ t.seq = .iPollRd ∧ t.responses = s.responses ∧ t.inbox = s.inbox ∧
      t.trace = s.trace ++ events ∧ events.map Event.shape = pollShapes s.cfg s.devAddr k

/-- INIT on another device: `DeviceNotFound` after exactly one read and no write; `INITED` = 0, `DEV_ADDR` the address
tried (R162, R169, R170, R201). -/
def Obligations.WrongIdentityEndsInit : Prop :=
  ∀ (addr : Word) (s : State) (m : DevMove) (rest : List DevMove), addr.toNat < 2 ^ 7 → s.seq = .idle →
    s.inbox = [presents (.init addr)] → s.script = m :: rest →
    Shows m (BitVec.ofNat 7 addr.toNat) 0x0F#8 2 (fun bytes => foldMsb bytes ≠ s.cfg.idExpect.toNat) →
    ∃ t bytes, runs 2 s t ∧ Responds s t .deviceNotFound 0#32 ∧ t.inited = false ∧ t.devAddr.toNat = addr.toNat ∧
      t.trace = s.trace ++ [.read (BitVec.ofNat 7 addr.toNat) 0x0F#8 2 bytes]

/-- The transaction that failed is the step's own: the event names the register, and the width or the bytes, that the step
reads or writes. That a failure leaves an event on the trace is the model's choice (log entry 13). -/
def Obligations.FailedTransactionsAreTheStepsOwn : Prop :=
  ∀ (i : Instr) (s : State) (c : Cause), hasStep i s.seq = true → s.seq ≠ .iPollWait → s.move.reply = .fail c →
    ∃ t, exec i s = .next t ∧ Logs s t (failedEvent i s c)
end

