-- ==== Sys2Proof/Laws/State.lean ====
section
/-! SUPPORT. One lemma per field per update of the state, and the transport move of an updated state. -/

namespace Sys2Proof.Machine

variable (s : State)

/-! ### `setSeq` -/

@[simp] theorem State.setSeq_cfg (q : Seq) : (s.setSeq q).cfg = s.cfg := rfl
@[simp] theorem State.setSeq_devAddr (q : Seq) : (s.setSeq q).devAddr = s.devAddr := rfl
@[simp] theorem State.setSeq_inited (q : Seq) : (s.setSeq q).inited = s.inited := rfl
@[simp] theorem State.setSeq_seq (q : Seq) : (s.setSeq q).seq = q := rfl
@[simp] theorem State.setSeq_cmd (q : Seq) : (s.setSeq q).cmd = s.cmd := rfl
@[simp] theorem State.setSeq_data (q : Seq) : (s.setSeq q).data = s.data := rfl
@[simp] theorem State.setSeq_buf (q : Seq) : (s.setSeq q).buf = s.buf := rfl
@[simp] theorem State.setSeq_acc (q : Seq) : (s.setSeq q).acc = s.acc := rfl
@[simp] theorem State.setSeq_inbox (q : Seq) : (s.setSeq q).inbox = s.inbox := rfl
@[simp] theorem State.setSeq_responses (q : Seq) : (s.setSeq q).responses = s.responses := rfl
@[simp] theorem State.setSeq_mem (q : Seq) : (s.setSeq q).mem = s.mem := rfl
@[simp] theorem State.setSeq_script (q : Seq) : (s.setSeq q).script = s.script := rfl
@[simp] theorem State.setSeq_freeIdx (q : Seq) : (s.setSeq q).freeIdx = s.freeIdx := rfl
@[simp] theorem State.setSeq_trace (q : Seq) : (s.setSeq q).trace = s.trace := rfl
@[simp] theorem State.setSeq_move (q : Seq) : (s.setSeq q).move = s.move := rfl
@[simp] theorem State.setSeq_heldMem (q : Seq) : (s.setSeq q).heldMem = s.heldMem := rfl

/-! ### `setAcc` -/

@[simp] theorem State.setAcc_cfg (v : Nat) : (s.setAcc v).cfg = s.cfg := rfl
@[simp] theorem State.setAcc_devAddr (v : Nat) : (s.setAcc v).devAddr = s.devAddr := rfl
@[simp] theorem State.setAcc_inited (v : Nat) : (s.setAcc v).inited = s.inited := rfl
@[simp] theorem State.setAcc_seq (v : Nat) : (s.setAcc v).seq = s.seq := rfl
@[simp] theorem State.setAcc_cmd (v : Nat) : (s.setAcc v).cmd = s.cmd := rfl
@[simp] theorem State.setAcc_data (v : Nat) : (s.setAcc v).data = s.data := rfl
@[simp] theorem State.setAcc_buf (v : Nat) : (s.setAcc v).buf = s.buf := rfl
@[simp] theorem State.setAcc_acc (v : Nat) : (s.setAcc v).acc = BitVec.ofNat 32 v := rfl
@[simp] theorem State.setAcc_inbox (v : Nat) : (s.setAcc v).inbox = s.inbox := rfl
@[simp] theorem State.setAcc_responses (v : Nat) : (s.setAcc v).responses = s.responses := rfl
@[simp] theorem State.setAcc_mem (v : Nat) : (s.setAcc v).mem = s.mem := rfl
@[simp] theorem State.setAcc_script (v : Nat) : (s.setAcc v).script = s.script := rfl
@[simp] theorem State.setAcc_freeIdx (v : Nat) : (s.setAcc v).freeIdx = s.freeIdx := rfl
@[simp] theorem State.setAcc_trace (v : Nat) : (s.setAcc v).trace = s.trace := rfl
@[simp] theorem State.setAcc_move (v : Nat) : (s.setAcc v).move = s.move := rfl
@[simp] theorem State.setAcc_heldMem (v : Nat) : (s.setAcc v).heldMem = s.heldMem := rfl

/-! ### `loadBuf` -/

@[simp] theorem State.loadBuf_cfg (bs : List Byte) : (s.loadBuf bs).cfg = s.cfg := rfl
@[simp] theorem State.loadBuf_devAddr (bs : List Byte) : (s.loadBuf bs).devAddr = s.devAddr := rfl
@[simp] theorem State.loadBuf_inited (bs : List Byte) : (s.loadBuf bs).inited = s.inited := rfl
@[simp] theorem State.loadBuf_seq (bs : List Byte) : (s.loadBuf bs).seq = s.seq := rfl
@[simp] theorem State.loadBuf_cmd (bs : List Byte) : (s.loadBuf bs).cmd = s.cmd := rfl
@[simp] theorem State.loadBuf_data (bs : List Byte) : (s.loadBuf bs).data = s.data := rfl
@[simp] theorem State.loadBuf_buf (bs : List Byte) : (s.loadBuf bs).buf = bs ++ s.buf.drop bs.length := rfl
@[simp] theorem State.loadBuf_acc (bs : List Byte) : (s.loadBuf bs).acc = s.acc := rfl
@[simp] theorem State.loadBuf_inbox (bs : List Byte) : (s.loadBuf bs).inbox = s.inbox := rfl
@[simp] theorem State.loadBuf_responses (bs : List Byte) : (s.loadBuf bs).responses = s.responses := rfl
@[simp] theorem State.loadBuf_mem (bs : List Byte) : (s.loadBuf bs).mem = s.mem := rfl
@[simp] theorem State.loadBuf_script (bs : List Byte) : (s.loadBuf bs).script = s.script := rfl
@[simp] theorem State.loadBuf_freeIdx (bs : List Byte) : (s.loadBuf bs).freeIdx = s.freeIdx := rfl
@[simp] theorem State.loadBuf_trace (bs : List Byte) : (s.loadBuf bs).trace = s.trace := rfl
@[simp] theorem State.loadBuf_move (bs : List Byte) : (s.loadBuf bs).move = s.move := rfl
@[simp] theorem State.loadBuf_heldMem (bs : List Byte) : (s.loadBuf bs).heldMem = s.heldMem := rfl

/-! ### `latch` -/

@[simp] theorem State.latch_cfg (i : Instr) : (s.latch i).cfg = s.cfg := rfl
@[simp] theorem State.latch_devAddr (i : Instr) : (s.latch i).devAddr = s.devAddr := rfl
@[simp] theorem State.latch_inited (i : Instr) : (s.latch i).inited = s.inited := rfl
@[simp] theorem State.latch_seq (i : Instr) : (s.latch i).seq = s.seq := rfl
@[simp] theorem State.latch_cmd (i : Instr) : (s.latch i).cmd = encodeCmd i := rfl
@[simp] theorem State.latch_data (i : Instr) : (s.latch i).data = encodeData i := rfl
@[simp] theorem State.latch_buf (i : Instr) : (s.latch i).buf = s.buf := rfl
@[simp] theorem State.latch_acc (i : Instr) : (s.latch i).acc = s.acc := rfl
@[simp] theorem State.latch_inbox (i : Instr) : (s.latch i).inbox = s.inbox := rfl
@[simp] theorem State.latch_responses (i : Instr) : (s.latch i).responses = s.responses := rfl
@[simp] theorem State.latch_mem (i : Instr) : (s.latch i).mem = s.mem := rfl
@[simp] theorem State.latch_script (i : Instr) : (s.latch i).script = s.script := rfl
@[simp] theorem State.latch_freeIdx (i : Instr) : (s.latch i).freeIdx = s.freeIdx := rfl
@[simp] theorem State.latch_trace (i : Instr) : (s.latch i).trace = s.trace := rfl
@[simp] theorem State.latch_move (i : Instr) : (s.latch i).move = s.move := rfl
@[simp] theorem State.latch_heldMem (i : Instr) : (s.latch i).heldMem = s.heldMem := rfl

/-! ### `openHandle` -/

@[simp] theorem State.openHandle_cfg (w : Word) : (s.openHandle w).cfg = s.cfg := rfl
@[simp] theorem State.openHandle_devAddr (w : Word) : (s.openHandle w).devAddr = w.setWidth 7 := rfl
@[simp] theorem State.openHandle_inited (w : Word) : (s.openHandle w).inited = false := rfl
@[simp] theorem State.openHandle_seq (w : Word) : (s.openHandle w).seq = s.seq := rfl
@[simp] theorem State.openHandle_cmd (w : Word) : (s.openHandle w).cmd = s.cmd := rfl
@[simp] theorem State.openHandle_data (w : Word) : (s.openHandle w).data = s.data := rfl
@[simp] theorem State.openHandle_buf (w : Word) : (s.openHandle w).buf = s.buf := rfl
@[simp] theorem State.openHandle_acc (w : Word) : (s.openHandle w).acc = s.acc := rfl
@[simp] theorem State.openHandle_inbox (w : Word) : (s.openHandle w).inbox = s.inbox := rfl
@[simp] theorem State.openHandle_responses (w : Word) : (s.openHandle w).responses = s.responses := rfl
@[simp] theorem State.openHandle_mem (w : Word) : (s.openHandle w).mem = s.mem := rfl
@[simp] theorem State.openHandle_script (w : Word) : (s.openHandle w).script = s.script := rfl
@[simp] theorem State.openHandle_freeIdx (w : Word) : (s.openHandle w).freeIdx = s.freeIdx := rfl
@[simp] theorem State.openHandle_trace (w : Word) : (s.openHandle w).trace = s.trace := rfl
@[simp] theorem State.openHandle_move (w : Word) : (s.openHandle w).move = s.move := rfl
@[simp] theorem State.openHandle_heldMem (w : Word) : (s.openHandle w).heldMem = s.heldMem := rfl

/-! ### `completeHandle` -/

@[simp] theorem State.completeHandle_cfg : (s.completeHandle).cfg = s.cfg := rfl
@[simp] theorem State.completeHandle_devAddr : (s.completeHandle).devAddr = s.devAddr := rfl
@[simp] theorem State.completeHandle_inited : (s.completeHandle).inited = true := rfl
@[simp] theorem State.completeHandle_seq : (s.completeHandle).seq = s.seq := rfl
@[simp] theorem State.completeHandle_cmd : (s.completeHandle).cmd = s.cmd := rfl
@[simp] theorem State.completeHandle_data : (s.completeHandle).data = s.data := rfl
@[simp] theorem State.completeHandle_buf : (s.completeHandle).buf = s.buf := rfl
@[simp] theorem State.completeHandle_acc : (s.completeHandle).acc = s.acc := rfl
@[simp] theorem State.completeHandle_inbox : (s.completeHandle).inbox = s.inbox := rfl
@[simp] theorem State.completeHandle_responses : (s.completeHandle).responses = s.responses := rfl
@[simp] theorem State.completeHandle_mem : (s.completeHandle).mem = s.mem := rfl
@[simp] theorem State.completeHandle_script : (s.completeHandle).script = s.script := rfl
@[simp] theorem State.completeHandle_freeIdx : (s.completeHandle).freeIdx = s.freeIdx := rfl
@[simp] theorem State.completeHandle_trace : (s.completeHandle).trace = s.trace := rfl
@[simp] theorem State.completeHandle_move : (s.completeHandle).move = s.move := rfl
@[simp] theorem State.completeHandle_heldMem : (s.completeHandle).heldMem = s.heldMem := rfl

/-! ### `setInbox` -/

@[simp] theorem State.setInbox_cfg (l : List HostInput) : (s.setInbox l).cfg = s.cfg := rfl
@[simp] theorem State.setInbox_devAddr (l : List HostInput) : (s.setInbox l).devAddr = s.devAddr := rfl
@[simp] theorem State.setInbox_inited (l : List HostInput) : (s.setInbox l).inited = s.inited := rfl
@[simp] theorem State.setInbox_seq (l : List HostInput) : (s.setInbox l).seq = s.seq := rfl
@[simp] theorem State.setInbox_cmd (l : List HostInput) : (s.setInbox l).cmd = s.cmd := rfl
@[simp] theorem State.setInbox_data (l : List HostInput) : (s.setInbox l).data = s.data := rfl
@[simp] theorem State.setInbox_buf (l : List HostInput) : (s.setInbox l).buf = s.buf := rfl
@[simp] theorem State.setInbox_acc (l : List HostInput) : (s.setInbox l).acc = s.acc := rfl
@[simp] theorem State.setInbox_inbox (l : List HostInput) : (s.setInbox l).inbox = l := rfl
@[simp] theorem State.setInbox_responses (l : List HostInput) : (s.setInbox l).responses = s.responses := rfl
@[simp] theorem State.setInbox_mem (l : List HostInput) : (s.setInbox l).mem = s.mem := rfl
@[simp] theorem State.setInbox_script (l : List HostInput) : (s.setInbox l).script = s.script := rfl
@[simp] theorem State.setInbox_freeIdx (l : List HostInput) : (s.setInbox l).freeIdx = s.freeIdx := rfl
@[simp] theorem State.setInbox_trace (l : List HostInput) : (s.setInbox l).trace = s.trace := rfl
@[simp] theorem State.setInbox_move (l : List HostInput) : (s.setInbox l).move = s.move := rfl
@[simp] theorem State.setInbox_heldMem (l : List HostInput) : (s.setInbox l).heldMem = s.heldMem := rfl

/-! ### `log` -/

@[simp] theorem State.log_cfg (e : Event) : (s.log e).cfg = s.cfg := rfl
@[simp] theorem State.log_devAddr (e : Event) : (s.log e).devAddr = s.devAddr := rfl
@[simp] theorem State.log_inited (e : Event) : (s.log e).inited = s.inited := rfl
@[simp] theorem State.log_seq (e : Event) : (s.log e).seq = s.seq := rfl
@[simp] theorem State.log_cmd (e : Event) : (s.log e).cmd = s.cmd := rfl
@[simp] theorem State.log_data (e : Event) : (s.log e).data = s.data := rfl
@[simp] theorem State.log_buf (e : Event) : (s.log e).buf = s.buf := rfl
@[simp] theorem State.log_acc (e : Event) : (s.log e).acc = s.acc := rfl
@[simp] theorem State.log_inbox (e : Event) : (s.log e).inbox = s.inbox := rfl
@[simp] theorem State.log_responses (e : Event) : (s.log e).responses = s.responses := rfl
@[simp] theorem State.log_mem (e : Event) : (s.log e).mem = s.mem := rfl
@[simp] theorem State.log_script (e : Event) : (s.log e).script = s.script := rfl
@[simp] theorem State.log_freeIdx (e : Event) : (s.log e).freeIdx = s.freeIdx := rfl
@[simp] theorem State.log_trace (e : Event) : (s.log e).trace = s.trace ++ [e] := rfl
@[simp] theorem State.log_move (e : Event) : (s.log e).move = s.move := rfl
@[simp] theorem State.log_heldMem (e : Event) : (s.log e).heldMem = s.heldMem := rfl

/-! ### `setMem` -/

@[simp] theorem State.setMem_cfg (m : Memory) : (s.setMem m).cfg = s.cfg := rfl
@[simp] theorem State.setMem_devAddr (m : Memory) : (s.setMem m).devAddr = s.devAddr := rfl
@[simp] theorem State.setMem_inited (m : Memory) : (s.setMem m).inited = s.inited := rfl
@[simp] theorem State.setMem_seq (m : Memory) : (s.setMem m).seq = s.seq := rfl
@[simp] theorem State.setMem_cmd (m : Memory) : (s.setMem m).cmd = s.cmd := rfl
@[simp] theorem State.setMem_data (m : Memory) : (s.setMem m).data = s.data := rfl
@[simp] theorem State.setMem_buf (m : Memory) : (s.setMem m).buf = s.buf := rfl
@[simp] theorem State.setMem_acc (m : Memory) : (s.setMem m).acc = s.acc := rfl
@[simp] theorem State.setMem_inbox (m : Memory) : (s.setMem m).inbox = s.inbox := rfl
@[simp] theorem State.setMem_responses (m : Memory) : (s.setMem m).responses = s.responses := rfl
@[simp] theorem State.setMem_mem (m : Memory) : (s.setMem m).mem = m := rfl
@[simp] theorem State.setMem_script (m : Memory) : (s.setMem m).script = s.script := rfl
@[simp] theorem State.setMem_freeIdx (m : Memory) : (s.setMem m).freeIdx = s.freeIdx := rfl
@[simp] theorem State.setMem_trace (m : Memory) : (s.setMem m).trace = s.trace := rfl
@[simp] theorem State.setMem_move (m : Memory) : (s.setMem m).move = s.move := rfl

/-! ### `respond` -/

@[simp] theorem State.respond_cfg (st : Status) (r : Word) : (s.respond st r).cfg = s.cfg := rfl
@[simp] theorem State.respond_devAddr (st : Status) (r : Word) : (s.respond st r).devAddr = s.devAddr := rfl
@[simp] theorem State.respond_inited (st : Status) (r : Word) : (s.respond st r).inited = s.inited := rfl
@[simp] theorem State.respond_seq (st : Status) (r : Word) : (s.respond st r).seq = .idle := rfl
@[simp] theorem State.respond_cmd (st : Status) (r : Word) : (s.respond st r).cmd = s.cmd := rfl
@[simp] theorem State.respond_data (st : Status) (r : Word) : (s.respond st r).data = s.data := rfl
@[simp] theorem State.respond_buf (st : Status) (r : Word) : (s.respond st r).buf = s.buf := rfl
@[simp] theorem State.respond_acc (st : Status) (r : Word) : (s.respond st r).acc = s.acc := rfl
@[simp] theorem State.respond_inbox (st : Status) (r : Word) : (s.respond st r).inbox = s.inbox := rfl
@[simp] theorem State.respond_responses (st : Status) (r : Word) : (s.respond st r).responses = s.responses ++ [⟨st, r⟩] := rfl
@[simp] theorem State.respond_mem (st : Status) (r : Word) : (s.respond st r).mem = s.mem := rfl
@[simp] theorem State.respond_script (st : Status) (r : Word) : (s.respond st r).script = s.script := rfl
@[simp] theorem State.respond_freeIdx (st : Status) (r : Word) : (s.respond st r).freeIdx = s.freeIdx := rfl
@[simp] theorem State.respond_trace (st : Status) (r : Word) : (s.respond st r).trace = s.trace := rfl
@[simp] theorem State.respond_move (st : Status) (r : Word) : (s.respond st r).move = s.move := rfl
@[simp] theorem State.respond_heldMem (st : Status) (r : Word) : (s.respond st r).heldMem = s.heldMem := rfl

/-! ### `raise` -/

@[simp] theorem State.raise_cfg (e : Status) (r : Word) : (s.raise e r).cfg = s.cfg := rfl
@[simp] theorem State.raise_devAddr (e : Status) (r : Word) : (s.raise e r).devAddr = s.devAddr := rfl
@[simp] theorem State.raise_inited (e : Status) (r : Word) : (s.raise e r).inited = s.inited := rfl
@[simp] theorem State.raise_seq (e : Status) (r : Word) : (s.raise e r).seq = .idle := rfl
@[simp] theorem State.raise_cmd (e : Status) (r : Word) : (s.raise e r).cmd = s.cmd := rfl
@[simp] theorem State.raise_data (e : Status) (r : Word) : (s.raise e r).data = s.data := rfl
@[simp] theorem State.raise_buf (e : Status) (r : Word) : (s.raise e r).buf = s.buf := rfl
@[simp] theorem State.raise_acc (e : Status) (r : Word) : (s.raise e r).acc = s.acc := rfl
@[simp] theorem State.raise_inbox (e : Status) (r : Word) : (s.raise e r).inbox = s.inbox := rfl
@[simp] theorem State.raise_responses (e : Status) (r : Word) : (s.raise e r).responses = s.responses ++ [⟨e, r⟩] := rfl
@[simp] theorem State.raise_mem (e : Status) (r : Word) : (s.raise e r).mem = s.mem := rfl
@[simp] theorem State.raise_script (e : Status) (r : Word) : (s.raise e r).script = s.script := rfl
@[simp] theorem State.raise_freeIdx (e : Status) (r : Word) : (s.raise e r).freeIdx = s.freeIdx := rfl
@[simp] theorem State.raise_trace (e : Status) (r : Word) : (s.raise e r).trace = s.trace := rfl
@[simp] theorem State.raise_move (e : Status) (r : Word) : (s.raise e r).move = s.move := rfl
@[simp] theorem State.raise_heldMem (e : Status) (r : Word) : (s.raise e r).heldMem = s.heldMem := rfl

/-! ### `takeMove` -/

@[simp] theorem State.takeMove_cfg : (s.takeMove).cfg = s.cfg := rfl
@[simp] theorem State.takeMove_devAddr : (s.takeMove).devAddr = s.devAddr := rfl
@[simp] theorem State.takeMove_inited : (s.takeMove).inited = s.inited := rfl
@[simp] theorem State.takeMove_seq : (s.takeMove).seq = s.seq := rfl
@[simp] theorem State.takeMove_cmd : (s.takeMove).cmd = s.cmd := rfl
@[simp] theorem State.takeMove_data : (s.takeMove).data = s.data := rfl
@[simp] theorem State.takeMove_buf : (s.takeMove).buf = s.buf := rfl
@[simp] theorem State.takeMove_acc : (s.takeMove).acc = s.acc := rfl
@[simp] theorem State.takeMove_inbox : (s.takeMove).inbox = s.inbox := rfl
@[simp] theorem State.takeMove_responses : (s.takeMove).responses = s.responses := rfl
@[simp] theorem State.takeMove_mem : (s.takeMove).mem = s.mem := rfl
@[simp] theorem State.takeMove_script : (s.takeMove).script = s.script.tail := rfl
@[simp] theorem State.takeMove_freeIdx : (s.takeMove).freeIdx = s.freeIdx + 1 := rfl
@[simp] theorem State.takeMove_trace : (s.takeMove).trace = s.trace := rfl

/-! ### `afterMove` -/

@[simp] theorem State.afterMove_cfg (m : Memory) : (s.afterMove m).cfg = s.cfg := rfl
@[simp] theorem State.afterMove_devAddr (m : Memory) : (s.afterMove m).devAddr = s.devAddr := rfl
@[simp] theorem State.afterMove_inited (m : Memory) : (s.afterMove m).inited = s.inited := rfl
@[simp] theorem State.afterMove_seq (m : Memory) : (s.afterMove m).seq = s.seq := rfl
@[simp] theorem State.afterMove_cmd (m : Memory) : (s.afterMove m).cmd = s.cmd := rfl
@[simp] theorem State.afterMove_data (m : Memory) : (s.afterMove m).data = s.data := rfl
@[simp] theorem State.afterMove_buf (m : Memory) : (s.afterMove m).buf = s.buf := rfl
@[simp] theorem State.afterMove_acc (m : Memory) : (s.afterMove m).acc = s.acc := rfl
@[simp] theorem State.afterMove_inbox (m : Memory) : (s.afterMove m).inbox = s.inbox := rfl
@[simp] theorem State.afterMove_responses (m : Memory) : (s.afterMove m).responses = s.responses := rfl
@[simp] theorem State.afterMove_mem (m : Memory) : (s.afterMove m).mem = Memory.change m s.move.after := rfl
@[simp] theorem State.afterMove_script (m : Memory) : (s.afterMove m).script = s.script.tail := rfl
@[simp] theorem State.afterMove_freeIdx (m : Memory) : (s.afterMove m).freeIdx = s.freeIdx + 1 := rfl
@[simp] theorem State.afterMove_trace (m : Memory) : (s.afterMove m).trace = s.trace := rfl

/-! ### `blockReset` -/

@[simp] theorem State.blockReset_cfg : (s.blockReset).cfg = s.cfg := rfl
@[simp] theorem State.blockReset_devAddr : (s.blockReset).devAddr = s.cfg.defaultAddr := rfl
@[simp] theorem State.blockReset_inited : (s.blockReset).inited = false := rfl
@[simp] theorem State.blockReset_seq : (s.blockReset).seq = .idle := rfl
@[simp] theorem State.blockReset_cmd : (s.blockReset).cmd = 0#32 := rfl
@[simp] theorem State.blockReset_data : (s.blockReset).data = 0#32 := rfl
@[simp] theorem State.blockReset_buf : (s.blockReset).buf = List.replicate s.cfg.wMax 0#8 := rfl
@[simp] theorem State.blockReset_acc : (s.blockReset).acc = 0#32 := rfl
@[simp] theorem State.blockReset_inbox : (s.blockReset).inbox = s.inbox := rfl
@[simp] theorem State.blockReset_responses : (s.blockReset).responses = s.responses := rfl
@[simp] theorem State.blockReset_mem : (s.blockReset).mem = s.mem := rfl
@[simp] theorem State.blockReset_script : (s.blockReset).script = s.script := rfl
@[simp] theorem State.blockReset_freeIdx : (s.blockReset).freeIdx = s.freeIdx := rfl
@[simp] theorem State.blockReset_trace : (s.blockReset).trace = s.trace := rfl
@[simp] theorem State.blockReset_move : (s.blockReset).move = s.move := rfl
@[simp] theorem State.blockReset_heldMem : (s.blockReset).heldMem = s.heldMem := rfl

/-! ### `resetWith` -/

@[simp] theorem State.resetWith_cfg (c : Config) : (State.resetWith c).cfg = c := rfl
@[simp] theorem State.resetWith_devAddr (c : Config) : (State.resetWith c).devAddr = c.defaultAddr := rfl
@[simp] theorem State.resetWith_inited (c : Config) : (State.resetWith c).inited = false := rfl
@[simp] theorem State.resetWith_seq (c : Config) : (State.resetWith c).seq = .idle := rfl
@[simp] theorem State.resetWith_cmd (c : Config) : (State.resetWith c).cmd = 0#32 := rfl
@[simp] theorem State.resetWith_data (c : Config) : (State.resetWith c).data = 0#32 := rfl
@[simp] theorem State.resetWith_buf (c : Config) : (State.resetWith c).buf = List.replicate c.wMax 0#8 := rfl
@[simp] theorem State.resetWith_acc (c : Config) : (State.resetWith c).acc = 0#32 := rfl
@[simp] theorem State.resetWith_inbox (c : Config) : (State.resetWith c).inbox = [] := rfl
@[simp] theorem State.resetWith_responses (c : Config) : (State.resetWith c).responses = [] := rfl
@[simp] theorem State.resetWith_mem (c : Config) : (State.resetWith c).mem = [] := rfl
@[simp] theorem State.resetWith_script (c : Config) : (State.resetWith c).script = [] := rfl
@[simp] theorem State.resetWith_freeIdx (c : Config) : (State.resetWith c).freeIdx = 0 := rfl
@[simp] theorem State.resetWith_trace (c : Config) : (State.resetWith c).trace = [] := rfl

end Sys2Proof.Machine
end

