-- ==== Sys2Proof/Laws/Memory.lean ====
section
/-! SUPPORT. The device's register space: reads after stores, and every operation keeps the canonical form. -/

namespace Sys2Proof.Machine

/-! ### One byte -/

theorem Memory.get_put_same (m : Memory) (a : Nat) (v : Byte) : Memory.get (Memory.put m a v) a = some v := by
  induction m with
  | nil => simp [Memory.put, Memory.get]
  | cons c m ih =>
    obtain ⟨k, b⟩ := c
    simp only [Memory.put]
    split
    · simp [Memory.get]
    · split
      · simp [Memory.get]
      · have : k ≠ a := by omega
        simp [Memory.get, this, ih]

theorem Memory.get_put_other (m : Memory) {a a' : Nat} (v : Byte) (h : a' ≠ a) :
    Memory.get (Memory.put m a v) a' = Memory.get m a' := by
  induction m with
  | nil => simp [Memory.put, Memory.get, Ne.symm h]
  | cons c m ih =>
    obtain ⟨k, b⟩ := c
    simp only [Memory.put]
    split
    · simp [Memory.get, Ne.symm h]
    · split
      · rename_i hk
        have : ¬ k = a' := by omega
        simp [Memory.get, Ne.symm h, this]
      · simp [Memory.get, ih]

@[simp] theorem Memory.holds_put_same (m : Memory) (a : Nat) (v : Byte) :
    Memory.holds (Memory.put m a v) a = v := by
  simp [Memory.holds, Memory.get_put_same]

theorem Memory.holds_put_other (m : Memory) {a a' : Nat} (v : Byte) (h : a' ≠ a) :
    Memory.holds (Memory.put m a v) a' = Memory.holds m a' := by
  simp [Memory.holds, Memory.get_put_other m v h]

/-! ### Several bytes -/

theorem Memory.holds_putBytes_outside (bs : List Byte) (m : Memory) (a a' : Nat)
    (h : a' < a ∨ a + bs.length ≤ a') : Memory.holds (Memory.putBytes m a bs) a' = Memory.holds m a' := by
  induction bs generalizing m a with
  | nil => rfl
  | cons b bs ih =>
    simp only [List.length_cons] at h
    rw [Memory.putBytes, ih _ _ (by omega), Memory.holds_put_other _ _ (by omega)]

theorem Memory.holds_putBytes_inside (bs : List Byte) (m : Memory) (a k : Nat) (h : k < bs.length) :
    Memory.holds (Memory.putBytes m a bs) (a + k) = bs[k] := by
  induction bs generalizing m a k with
  | nil => simp at h
  | cons b bs ih =>
    cases k with
    | zero =>
      rw [Memory.putBytes, Memory.holds_putBytes_outside _ _ _ _ (by omega)]
      simp
    | succ k =>
      have hk : k < bs.length := by simpa using h
      rw [Memory.putBytes, show a + (k + 1) = a + 1 + k by omega, ih _ _ _ hk]
      simp

/-! ### A register of the device -/

theorem regKey_add (da : BusAddr) (ra : RegAddr) (k : Nat) : regKey da ra 0 + k = regKey da ra k := by
  simp [regKey]

theorem regKey_lt (da : BusAddr) (ra : RegAddr) {k : Nat} (h : k < 8) : regKey da ra k < 2 ^ 18 := by
  have := da.isLt
  have := ra.isLt
  simp only [regKey]
  omega

/-- Registers at different addresses share no bytes (R75). -/
theorem regKey_inj {da da' : BusAddr} {ra ra' : RegAddr} {k k' : Nat} (hk : k < 8) (hk' : k' < 8)
    (h : regKey da ra k = regKey da' ra' k') : da = da' ∧ ra = ra' ∧ k = k' := by
  have h1 := ra.isLt
  have h2 := ra'.isLt
  simp only [regKey] at h
  refine ⟨BitVec.eq_of_toNat_eq ?_, BitVec.eq_of_toNat_eq ?_, ?_⟩ <;> omega

@[simp] theorem Memory.window_length (m : Memory) (da : BusAddr) (ra : RegAddr) (n : Nat) :
    (Memory.window m da ra n).length = n := by
  simp [Memory.window]

/-- A read after a store to the same register gives the bytes stored (R82). -/
theorem Memory.window_store_same (m : Memory) (da : BusAddr) (ra : RegAddr) (bs : List Byte) (h : bs.length ≤ 8) :
    Memory.window (Memory.store m da ra bs) da ra bs.length = bs := by
  apply List.ext_getElem
  · simp
  · intro k h1 h2
    simp only [Memory.window, Memory.store, List.getElem_map, List.getElem_range]
    rw [List.take_of_length_le h, ← regKey_add da ra k, Memory.holds_putBytes_inside _ _ _ _ h2]

/-- A store leaves every other place as it was. -/
theorem Memory.holds_store_outside (m : Memory) (da : BusAddr) (ra : RegAddr) (bs : List Byte) (a : Nat)
    (h : a < regKey da ra 0 ∨ regKey da ra bs.length ≤ a) :
    Memory.holds (Memory.store m da ra bs) a = Memory.holds m a := by
  apply Memory.holds_putBytes_outside
  rw [← regKey_add da ra bs.length] at h
  simp only [List.length_take]
  omega

/-- What the device's own changes leave at a place depends only on what was there. -/
theorem Memory.holds_change_congr (l : List DevChange) {m m' : Memory} (a : Nat)
    (h : Memory.holds m a = Memory.holds m' a) :
    Memory.holds (Memory.change m l) a = Memory.holds (Memory.change m' l) a := by
  induction l generalizing m m' with
  | nil => exact h
  | cons c l ih =>
    simp only [Memory.change, List.foldl_cons] at ih ⊢
    apply ih
    by_cases hin : regKey c.da c.ra 0 ≤ a ∧ a < regKey c.da c.ra 0 + (c.bytes.take 8).length
    · obtain ⟨k, rfl⟩ : ∃ k, a = regKey c.da c.ra 0 + k := ⟨a - regKey c.da c.ra 0, by omega⟩
      have hk : k < (c.bytes.take 8).length := by omega
      simp only [Memory.store]
      rw [Memory.holds_putBytes_inside _ _ _ _ hk, Memory.holds_putBytes_inside _ _ _ _ hk]
    · simp only [Memory.store]
      rw [Memory.holds_putBytes_outside _ _ _ _ (by omega), Memory.holds_putBytes_outside _ _ _ _ (by omega), h]

@[simp] theorem Memory.change_nil (m : Memory) : Memory.change m [] = m := rfl

/-! ### The canonical form -/

theorem Memory.wfFrom_mono {lo lo' : Nat} {m : Memory} (h : lo' ≤ lo) (hm : Memory.wfFrom lo m = true) :
    Memory.wfFrom lo' m = true := by
  cases m with
  | nil => rfl
  | cons c m =>
    obtain ⟨k, b⟩ := c
    simp only [Memory.wfFrom, Bool.and_eq_true, decide_eq_true_eq] at hm ⊢
    exact ⟨⟨by omega, hm.1.2⟩, hm.2⟩

theorem Memory.wfFrom_put {lo : Nat} {m : Memory} {a : Nat} (v : Byte) (hm : Memory.wfFrom lo m = true) (hlo : lo ≤ a)
    (ha : a < 2 ^ 18) : Memory.wfFrom lo (Memory.put m a v) = true := by
  induction m generalizing lo with
  | nil => simp [Memory.put, Memory.wfFrom]; omega
  | cons c m ih =>
    obtain ⟨k, b⟩ := c
    have hm' := hm
    simp only [Memory.wfFrom, Bool.and_eq_true, decide_eq_true_eq] at hm'
    simp only [Memory.put]
    split
    · simp only [Memory.wfFrom, Bool.and_eq_true, decide_eq_true_eq]
      refine ⟨⟨hlo, ha⟩, ⟨?_, hm'.1.2⟩, hm'.2⟩
      omega
    · split
      · rename_i hk
        subst hk
        simpa only [Memory.wfFrom, Bool.and_eq_true, decide_eq_true_eq] using hm'
      · simp only [Memory.wfFrom, Bool.and_eq_true, decide_eq_true_eq]
        exact ⟨hm'.1, ih hm'.2 (by omega)⟩

theorem Memory.wf_put {m : Memory} {a : Nat} (v : Byte) (hm : Memory.wf m = true) (ha : a < 2 ^ 18) :
    Memory.wf (Memory.put m a v) = true :=
  Memory.wfFrom_put v hm (Nat.zero_le a) ha

theorem Memory.wf_putBytes (bs : List Byte) {m : Memory} {a : Nat} (hm : Memory.wf m = true)
    (ha : a + bs.length ≤ 2 ^ 18) : Memory.wf (Memory.putBytes m a bs) = true := by
  induction bs generalizing m a with
  | nil => exact hm
  | cons b bs ih =>
    simp only [List.length_cons] at ha
    exact ih (Memory.wf_put b hm (by omega)) (by omega)

theorem Memory.wf_store {m : Memory} (da : BusAddr) (ra : RegAddr) (bs : List Byte) (hm : Memory.wf m = true) :
    Memory.wf (Memory.store m da ra bs) = true := by
  apply Memory.wf_putBytes _ hm
  have := regKey_lt da ra (k := 7) (by omega)
  rw [← regKey_add] at this
  simp only [List.length_take]
  omega

theorem Memory.wf_change (l : List DevChange) {m : Memory} (hm : Memory.wf m = true) :
    Memory.wf (Memory.change m l) = true := by
  induction l generalizing m with
  | nil => exact hm
  | cons c l ih => exact ih (Memory.wf_store c.da c.ra c.bytes hm)

theorem reset_mem_wf (c : Config) : Memory.wf (State.resetWith c).mem = true := rfl

theorem State.heldMem_wf {s : State} (h : Memory.wf s.mem = true) : Memory.wf s.heldMem = true :=
  Memory.wf_change _ h

end Sys2Proof.Machine
end

