-- ==== Sys2Proof/Laws/Operands.lean ====
section
/-! SUPPORT. The byte-array and bit-field arithmetic: bounds, and the two encodings of an array of bytes as inverses. -/

namespace Sys2Proof.Machine

theorem foldMsb_append (bs : List Byte) (b : Byte) : foldMsb (bs ++ [b]) = foldMsb bs * 256 + b.toNat := by
  simp [foldMsb]

@[simp] theorem foldMsb_nil : foldMsb [] = 0 := rfl

theorem foldMsb_lt (bs : List Byte) : foldMsb bs < 2 ^ (8 * bs.length) := by
  induction bs using List.reverseRecOn with
  | nil => simp
  | append_singleton bs b ih =>
    have := b.isLt
    rw [foldMsb_append, List.length_append, List.length_singleton, Nat.mul_add, Nat.pow_add]
    omega

theorem fold_lt (lsbf : Bool) (bs : List Byte) : fold lsbf bs < 2 ^ (8 * bs.length) := by
  unfold fold foldLsb
  split
  · simpa using foldMsb_lt bs.reverse
  · exact foldMsb_lt bs

@[simp] theorem beBytes_length (v n : Nat) : (beBytes v n).length = n := by simp [beBytes]

theorem beBytes_succ (v n : Nat) : beBytes v (n + 1) = beBytes (v / 256) n ++ [BitVec.ofNat 8 v] := by
  simp only [beBytes, List.range_succ, List.map_append, List.map_cons, List.map_nil]
  congr 1
  · apply List.map_congr_left
    intro i hi
    have hi' : i < n := by simpa using hi
    congr 1
    have : 8 * (n + 1 - 1 - i) = 8 + 8 * (n - 1 - i) := by omega
    rw [this, Nat.shiftRight_add, Nat.shiftRight_eq_div_pow v 8]
  · simp

/-- `fold_msb` undoes `be_bytes` (R21). -/
theorem foldMsb_beBytes (v n : Nat) (h : v < 2 ^ (8 * n)) : foldMsb (beBytes v n) = v := by
  induction n generalizing v with
  | zero => simp [beBytes] at h ⊢; omega
  | succ n ih =>
    rw [beBytes_succ, foldMsb_append, ih (v / 256) (by
      rw [Nat.mul_add, Nat.pow_add] at h
      omega)]
    simp only [BitVec.toNat_ofNat]
    omega

/-- `be_bytes` undoes `fold_msb` (R21). -/
theorem beBytes_foldMsb (bs : List Byte) : beBytes (foldMsb bs) bs.length = bs := by
  induction bs using List.reverseRecOn with
  | nil => rfl
  | append_singleton bs b ih =>
    have hb := b.isLt
    rw [List.length_append, List.length_singleton, beBytes_succ, foldMsb_append]
    congr 1
    · rw [show (foldMsb bs * 256 + b.toNat) / 256 = foldMsb bs by omega, ih]
    · congr 1
      apply BitVec.eq_of_toNat_eq
      simp only [BitVec.toNat_ofNat]
      omega

theorem clearBits_le (v m : Nat) : clearBits v m ≤ v := by
  unfold clearBits
  have h : (v ^^^ (v &&& m)) &&& v = v ^^^ (v &&& m) := by
    apply Nat.eq_of_testBit_eq
    intro i
    simp only [Nat.testBit_and, Nat.testBit_xor]
    cases v.testBit i <;> cases m.testBit i <;> rfl
  rw [← h]
  exact Nat.and_le_right

theorem testBit_clearBits (v m i : Nat) : (clearBits v m).testBit i = (v.testBit i && !m.testBit i) := by
  simp only [clearBits, Nat.testBit_and, Nat.testBit_xor]
  cases v.testBit i <;> cases m.testBit i <;> rfl

/-- The bits of a field (R22). -/
theorem testBit_fieldMask (fw sb i : Nat) : (fieldMask fw sb).testBit i = (decide (sb ≤ i) && decide (i - sb < fw)) := by
  simp [fieldMask, Nat.testBit_shiftLeft, Nat.one_shiftLeft, Nat.testBit_two_pow_sub_one]

theorem extractField_lt (d : BitField) (acc : Nat) : extractField d acc < 2 ^ d.fw.toNat := by
  unfold extractField maskOf
  apply Nat.lt_pow_two_of_testBit
  intro i hi
  have : ¬ d.sb.toNat + i - d.sb.toNat < d.fw.toNat := by omega
  rw [Nat.testBit_shiftRight, Nat.testBit_and, testBit_fieldMask, decide_eq_false this, Bool.and_false, Bool.and_false]

/-- A value that stays inside the window leaves it inside the window (R122). -/
theorem insertField_lt {d : BitField} {reg value n : Nat} (hr : reg < 2 ^ n) (hv : value <<< d.sb.toNat < 2 ^ n) :
    insertField d reg value < 2 ^ n :=
  Nat.or_lt_two_pow (Nat.lt_of_le_of_lt (clearBits_le _ _) hr) hv

theorem setAcc_toNat (s : State) {v n : Nat} (h : v < 2 ^ (8 * n)) (hn : n ≤ 4) : (s.setAcc v).acc.toNat = v := by
  have : (2 : Nat) ^ (8 * n) ≤ 2 ^ 32 := Nat.pow_le_pow_right (by omega) (by omega)
  simp only [State.setAcc_acc, BitVec.toNat_ofNat]
  omega

end Sys2Proof.Machine
end

