-- ==== Sys2Proof/Laws/Transport.lean ====
section
/-! SUPPORT. What one transaction, one accessor operation and one acceptance can do: one lemma each, by the far side's
reply or by the check that decides. -/

namespace Sys2Proof.Machine

@[simp] theorem State.sees_length (s : State) (ra : RegAddr) (n : Nat) : (s.sees ra n).length = n := by
  simp [State.sees]

/-- The state after a successful read of `n` bytes at `ra`, before the command uses them. -/
def State.afterRead (s : State) (ra : RegAddr) (n : Nat) : State :=
  ((s.afterMove s.heldMem).log (.read s.devAddr ra n (s.sees ra n))).loadBuf (s.sees ra n)

/-- The state after a successful write of bytes at `ra`. -/
def State.afterWrite (s : State) (ra : RegAddr) (bs : List Byte) : State :=
  ((s.loadBuf bs).afterMove (Memory.store s.heldMem s.devAddr ra bs)).log (.write s.devAddr ra bs)

section
variable {s : State} {ra : RegAddr} {n : Nat} {bs : List Byte} {c : Cause}

theorem memRead_ok (k : List Byte → State → Result) (h : s.move.reply = .ok) :
    memRead ra n s k = k (s.sees ra n) (s.afterRead ra n) := by
  simp [memRead, busRead, h, State.sees, State.afterRead]

theorem memRead_fail (k : List Byte → State → Result) (h : s.move.reply = .fail c) :
    memRead ra n s k =
      .next (((s.afterMove s.heldMem).log (.readFailed s.devAddr ra n c)).raise .busIOError (c.setWidth 32)) := by
  simp [memRead, busRead, h]

theorem memRead_pending (k : List Byte → State → Result) (h : s.move.reply = .pending) :
    memRead ra n s k = .next (s.afterMove s.heldMem) := by
  simp [memRead, busRead, h]

theorem memWrite_ok (k : State → Result) (h : s.move.reply = .ok) :
    memWrite ra bs s k = k (s.afterWrite ra bs) := by
  simp [memWrite, busWrite, h, State.afterWrite]

theorem memWrite_fail (k : State → Result) (h : s.move.reply = .fail c) :
    memWrite ra bs s k =
      .next ((((s.loadBuf bs).afterMove s.heldMem).log (.writeFailed s.devAddr ra bs c)).raise .busIOError
        (c.setWidth 32)) := by
  simp [memWrite, busWrite, h]

theorem memWrite_pending (k : State → Result) (h : s.move.reply = .pending) :
    memWrite ra bs s k = .next ((s.loadBuf bs).afterMove s.heldMem) := by
  simp [memWrite, busWrite, h]

/-- Everything a read transaction can do. -/
theorem memRead_cases (ra : RegAddr) (n : Nat) (s : State) (k : List Byte → State → Result) :
    (s.move.reply = .ok ∧ memRead ra n s k = k (s.sees ra n) (s.afterRead ra n)) ∨
    (∃ c, s.move.reply = .fail c ∧ memRead ra n s k =
      .next (((s.afterMove s.heldMem).log (.readFailed s.devAddr ra n c)).raise .busIOError (c.setWidth 32))) ∨
    (s.move.reply = .pending ∧ memRead ra n s k = .next (s.afterMove s.heldMem)) := by
  cases h : s.move.reply with
  | ok => exact .inl ⟨rfl, memRead_ok k h⟩
  | fail c => exact .inr (.inl ⟨c, rfl, memRead_fail k h⟩)
  | pending => exact .inr (.inr ⟨rfl, memRead_pending k h⟩)

/-- Everything a write transaction can do. -/
theorem memWrite_cases (ra : RegAddr) (bs : List Byte) (s : State) (k : State → Result) :
    (s.move.reply = .ok ∧ memWrite ra bs s k = k (s.afterWrite ra bs)) ∨
    (∃ c, s.move.reply = .fail c ∧ memWrite ra bs s k =
      .next ((((s.loadBuf bs).afterMove s.heldMem).log (.writeFailed s.devAddr ra bs c)).raise .busIOError
        (c.setWidth 32))) ∨
    (s.move.reply = .pending ∧ memWrite ra bs s k = .next ((s.loadBuf bs).afterMove s.heldMem)) := by
  cases h : s.move.reply with
  | ok => exact .inl ⟨rfl, memWrite_ok k h⟩
  | fail c => exact .inr (.inl ⟨c, rfl, memWrite_fail k h⟩)
  | pending => exact .inr (.inr ⟨rfl, memWrite_pending k h⟩)

/-! ### The accessor operations, where the transaction succeeds -/

theorem fieldRead_ok (d : BitField) (k : Nat → State → Result) (h : s.move.reply = .ok) :
    fieldRead d s k =
      k (extractField d (fold d.lsbf (s.sees d.ra d.rw.toNat)))
        ((s.afterRead d.ra d.rw.toNat).setAcc (fold d.lsbf (s.sees d.ra d.rw.toNat))) :=
  memRead_ok _ h

theorem fieldModify_fits (d : BitField) (value : Nat) (next : Seq) (h : s.move.reply = .ok)
    (hv : fieldOverflows d (insertField d (fold d.lsbf (s.sees d.ra d.rw.toNat)) value) = false) :
    fieldModify d value next s =
      .next (((s.afterRead d.ra d.rw.toNat).setAcc
        (insertField d (fold d.lsbf (s.sees d.ra d.rw.toNat)) value)).setSeq next) := by
  rw [fieldModify, memRead_ok _ h]
  simp [hv]

theorem fieldModify_overflows (d : BitField) (value : Nat) (next : Seq) (h : s.move.reply = .ok)
    (hv : fieldOverflows d (insertField d (fold d.lsbf (s.sees d.ra d.rw.toNat)) value) = true) :
    fieldModify d value next s =
      .next (((s.afterRead d.ra d.rw.toNat).setAcc
        ((Config.overflowAcc (s.freeIdx + 1)).toNat % 2 ^ (8 * s.cfg.wMax))).raise .valueOverflow 0#32) := by
  rw [fieldModify, memRead_ok _ h]
  simp [hv, State.afterRead]

theorem fieldWriteBack_ok (d : BitField) (k : State → Result) (h : s.move.reply = .ok) :
    fieldWriteBack d s k = k (s.afterWrite d.ra (beBytes s.acc.toNat d.rw.toNat)) :=
  memWrite_ok _ h

theorem rawFetch_ok (d : RawRegister) (k : Nat → State → Result) (h : s.move.reply = .ok) :
    rawFetch d s k =
      k (foldMsb (s.sees d.ra d.len.toNat))
        ((s.afterRead d.ra d.len.toNat).setAcc (foldMsb (s.sees d.ra d.len.toNat))) :=
  memRead_ok _ h

end

/-! ### Acceptance -/

/-- Everything the acceptance of a command can do (R110). -/
theorem accept_cases (i : Instr) (s : State) :
    (Instr.legal s.cfg i = false ∧ accept i s = .next (s.raise .illegalCommand 0#32)) ∨
    (Instr.legal s.cfg i = true ∧ i.isInit = false ∧ s.inited = false ∧
      accept i s = .next (s.raise .notReady 0#32)) ∨
    (Instr.legal s.cfg i = true ∧ (i.isInit = true ∨ s.inited = true) ∧
      accept i s = .next ((s.latch i).setSeq (firstStep i))) := by
  unfold accept
  cases hl : Instr.legal s.cfg i <;> cases hi : i.isInit <;> cases hs : s.inited <;> simp

/-- Everything INIT's acceptance can do (R161, R176). -/
theorem acceptInit_cases (addr : Word) (s : State) :
    (Instr.legal s.cfg (.init addr) = false ∧ acceptInit addr s = .next (s.raise .illegalCommand 0#32)) ∨
    (Instr.legal s.cfg (.init addr) = true ∧
      acceptInit addr s = .next (((s.latch (.init addr)).openHandle addr).setSeq .iId)) := by
  unfold acceptInit
  cases hl : Instr.legal s.cfg (.init addr) <;> simp

/-! ### A step -/

/-- Everything a step can do: the block's reset, a wait in `IDLE`, a word that selects no row, latches that hold no
command, or the command's own meaning. -/
theorem step_cases (s : State) :
    (∃ t, fetch s = .reset t ∧ step s = .next t.blockReset) ∨
    (∃ t, fetch s = .idle t ∧ step s = .next t) ∨
    (∃ t, fetch s = .illegal t ∧ step s = .next (t.raise .illegalCommand 0#32)) ∨
    (fetch s = .corrupt ∧ step s = .fault .latchNotACommand) ∨
    (∃ i t, fetch s = .run i t ∧ step s = exec i t) := by
  unfold step
  cases h : fetch s <;> simp

end Sys2Proof.Machine
end

