-- ==== Sys2Proof/Laws/PerInstr.lean ====
section
/-! SUPPORT. Facts about every command as syntax, one lemma per constructor. -/

namespace Sys2Proof.Laws.RowMatch

open Sys2Proof

/-- The opcode of a command's row (R96). -/
def opcode : Instr → Nat
  | .bfRead _ _ => 1
  | .bfWrite _ _ => 2
  | .rawRead _ _ => 3
  | .rawWrite _ _ => 4
  | .init _ => 5
  | .tempRead _ => 6
  | .alertStatus _ => 7

/-- How many low bits of a command's word must be 0 (R93 to R95). -/
def zeros : Instr → Nat
  | .bfRead _ _ => 5
  | .bfWrite _ _ => 5
  | .rawRead _ _ => 16
  | .rawWrite _ _ => 16
  | .init _ => 28
  | .tempRead _ => 28
  | .alertStatus _ => 28

/-- A command's word has its row's opcode (R96), and its row's reserved bits are 0 (R104). -/
def Statement (i : Instr) : Prop :=
  (encodeCmd i).toNat / 2 ^ 28 = opcode i ∧ (encodeCmd i).toNat % 2 ^ zeros i = 0

theorem bfRead (d : BitField) (data : Word) : Statement (.bfRead d data) := by
  have := Bool.toNat_le d.lsbf
  have := d.rw.isLt
  have := d.ra.isLt
  have := d.fw.isLt
  have := d.sb.isLt
  simp only [Statement, opcode, zeros, encodeCmd, formatB, BitVec.toNat_ofNat]
  omega

theorem bfWrite (d : BitField) (value : Word) : Statement (.bfWrite d value) := by
  have := Bool.toNat_le d.lsbf
  have := d.rw.isLt
  have := d.ra.isLt
  have := d.fw.isLt
  have := d.sb.isLt
  simp only [Statement, opcode, zeros, encodeCmd, formatB, BitVec.toNat_ofNat]
  omega

theorem rawRead (d : RawRegister) (data : Word) : Statement (.rawRead d data) := by
  have := Bool.toNat_le d.sgn
  have := d.len.isLt
  have := d.ra.isLt
  simp only [Statement, opcode, zeros, encodeCmd, formatR, BitVec.toNat_ofNat]
  omega

theorem rawWrite (d : RawRegister) (value : Word) : Statement (.rawWrite d value) := by
  have := Bool.toNat_le d.sgn
  have := d.len.isLt
  have := d.ra.isLt
  simp only [Statement, opcode, zeros, encodeCmd, formatR, BitVec.toNat_ofNat]
  omega

theorem init (addr : Word) : Statement (.init addr) := by
  simp only [Statement, opcode, zeros, encodeCmd]
  decide

theorem tempRead (data : Word) : Statement (.tempRead data) := by
  simp only [Statement, opcode, zeros, encodeCmd]
  decide

theorem alertStatus (data : Word) : Statement (.alertStatus data) := by
  simp only [Statement, opcode, zeros, encodeCmd]
  decide

end Sys2Proof.Laws.RowMatch
end

