-- ==== Sys2Proof/Laws/Decode.lean ====
section
/-! SUPPORT. The fields of an assembled word, and a word as the sum of its fields. -/

namespace Sys2Proof

theorem extractLsb'_eq_div_mod (w : Word) (start len : Nat) :
    (w.extractLsb' start len).toNat = w.toNat / 2 ^ start % 2 ^ len := by
  rw [BitVec.extractLsb'_toNat, Nat.shiftRight_eq_div_pow]

theorem getLsbD_eq_div_mod (w : Word) (k : Nat) : (w.getLsbD k).toNat = w.toNat / 2 ^ k % 2 := by
  rw [BitVec.getLsbD, Nat.testBit_eq_decide_div_mod_eq]
  rcases Nat.mod_two_eq_zero_or_one (w.toNat / 2 ^ k) with h | h <;> simp [h]

theorem formatB_toNat (opc : BitVec 4) (d : BitField) :
    (formatB opc d).toNat = opc.toNat * 2 ^ 28 + d.lsbf.toNat * 2 ^ 27 + d.rw.toNat * 2 ^ 24 + d.ra.toNat * 2 ^ 16 +
      d.fw.toNat * 2 ^ 10 + d.sb.toNat * 2 ^ 5 := by
  have := opc.isLt
  have := Bool.toNat_le d.lsbf
  have := d.rw.isLt
  have := d.ra.isLt
  have := d.fw.isLt
  have := d.sb.isLt
  simp only [formatB, BitVec.toNat_ofNat]
  omega

theorem formatR_toNat (opc : BitVec 4) (d : RawRegister) :
    (formatR opc d).toNat =
      opc.toNat * 2 ^ 28 + d.sgn.toNat * 2 ^ 27 + d.len.toNat * 2 ^ 24 + d.ra.toNat * 2 ^ 16 := by
  have := opc.isLt
  have := Bool.toNat_le d.sgn
  have := d.len.isLt
  have := d.ra.isLt
  simp only [formatR, BitVec.toNat_ofNat]
  omega

theorem formatD_toNat (opc : BitVec 4) : (formatD opc).toNat = opc.toNat * 2 ^ 28 := by
  have := opc.isLt
  simp only [formatD, BitVec.toNat_ofNat]
  omega

/-- A field of a word, from the word as a number. -/
theorem field_eq {w : Word} {n start len : Nat} {v : BitVec len} (hw : w.toNat = n)
    (h : n / 2 ^ start % 2 ^ len = v.toNat) : w.extractLsb' start len = v :=
  BitVec.eq_of_toNat_eq (by rw [extractLsb'_eq_div_mod, hw, h])

/-- A one-bit field of a word, from the word as a number. -/
theorem bit_eq {w : Word} {n k : Nat} {b : Bool} (hw : w.toNat = n) (h : n / 2 ^ k % 2 = b.toNat) :
    w.getLsbD k = b := by
  have hb : (w.getLsbD k).toNat = b.toNat := by rw [getLsbD_eq_div_mod, hw, h]
  cases hk : w.getLsbD k <;> cases b <;> simp_all

theorem opcOf_formatB (opc : BitVec 4) (d : BitField) : opcOf (formatB opc d) = opc := by
  have := opc.isLt
  have := Bool.toNat_le d.lsbf
  have := d.rw.isLt
  have := d.ra.isLt
  have := d.fw.isLt
  have := d.sb.isLt
  exact field_eq (formatB_toNat opc d) (by omega)

theorem opcOf_formatR (opc : BitVec 4) (d : RawRegister) : opcOf (formatR opc d) = opc := by
  have := opc.isLt
  have := Bool.toNat_le d.sgn
  have := d.len.isLt
  have := d.ra.isLt
  exact field_eq (formatR_toNat opc d) (by omega)

theorem opcOf_formatD (opc : BitVec 4) : opcOf (formatD opc) = opc := by
  have := opc.isLt
  exact field_eq (formatD_toNat opc) (by omega)

theorem zeros_formatB (opc : BitVec 4) (d : BitField) : (formatB opc d).extractLsb' 0 5 = 0#5 :=
  field_eq (formatB_toNat opc d) (by simp only [BitVec.toNat_ofNat]; omega)

theorem zeros_formatR (opc : BitVec 4) (d : RawRegister) : (formatR opc d).extractLsb' 0 16 = 0#16 :=
  field_eq (formatR_toNat opc d) (by simp only [BitVec.toNat_ofNat]; omega)

theorem zeros_formatD (opc : BitVec 4) : (formatD opc).extractLsb' 0 28 = 0#28 :=
  field_eq (formatD_toNat opc) (by simp only [BitVec.toNat_ofNat]; omega)

/-- No bit of a format B descriptor is dropped. -/
theorem bitFieldOf_formatB (opc : BitVec 4) (d : BitField) : bitFieldOf (formatB opc d) = d := by
  have := opc.isLt
  have := Bool.toNat_le d.lsbf
  have := d.rw.isLt
  have := d.ra.isLt
  have := d.fw.isLt
  have := d.sb.isLt
  have hw := formatB_toNat opc d
  have h1 : (formatB opc d).extractLsb' 16 8 = d.ra := field_eq hw (by omega)
  have h2 : (formatB opc d).extractLsb' 24 3 = d.rw := field_eq hw (by omega)
  have h3 : (formatB opc d).extractLsb' 10 6 = d.fw := field_eq hw (by omega)
  have h4 : (formatB opc d).extractLsb' 5 5 = d.sb := field_eq hw (by omega)
  have h5 : (formatB opc d).getLsbD 27 = d.lsbf := bit_eq hw (by omega)
  unfold bitFieldOf
  rw [h1, h2, h3, h4, h5]

/-- No bit of a format R descriptor is dropped. -/
theorem rawRegisterOf_formatR (opc : BitVec 4) (d : RawRegister) : rawRegisterOf (formatR opc d) = d := by
  have := opc.isLt
  have := Bool.toNat_le d.sgn
  have := d.len.isLt
  have := d.ra.isLt
  have hw := formatR_toNat opc d
  have h1 : (formatR opc d).extractLsb' 16 8 = d.ra := field_eq hw (by omega)
  have h2 : (formatR opc d).extractLsb' 24 3 = d.len := field_eq hw (by omega)
  have h3 : (formatR opc d).getLsbD 27 = d.sgn := bit_eq hw (by omega)
  unfold rawRegisterOf
  rw [h1, h2, h3]

/-- A word whose reserved bits are 0 is the sum of its format B fields. -/
theorem formatB_fields (cmd : Word) (h : cmd.extractLsb' 0 5 = 0#5) : formatB (opcOf cmd) (bitFieldOf cmd) = cmd := by
  apply BitVec.eq_of_toNat_eq
  have hz : cmd.toNat % 2 ^ 5 = 0 := by
    have := congrArg BitVec.toNat h
    rw [extractLsb'_eq_div_mod] at this
    simpa using this
  have hc := cmd.isLt
  rw [formatB_toNat]
  simp only [opcOf, bitFieldOf, extractLsb'_eq_div_mod, getLsbD_eq_div_mod]
  omega

/-- A word whose reserved bits are 0 is the sum of its format R fields. -/
theorem formatR_fields (cmd : Word) (h : cmd.extractLsb' 0 16 = 0#16) :
    formatR (opcOf cmd) (rawRegisterOf cmd) = cmd := by
  apply BitVec.eq_of_toNat_eq
  have hz : cmd.toNat % 2 ^ 16 = 0 := by
    have := congrArg BitVec.toNat h
    rw [extractLsb'_eq_div_mod] at this
    simpa using this
  have hc := cmd.isLt
  rw [formatR_toNat]
  simp only [opcOf, rawRegisterOf, extractLsb'_eq_div_mod, getLsbD_eq_div_mod]
  omega

/-- A word whose reserved bits are 0 is its format D opcode. -/
theorem formatD_fields (cmd : Word) (h : cmd.extractLsb' 0 28 = 0#28) : formatD (opcOf cmd) = cmd := by
  apply BitVec.eq_of_toNat_eq
  have hz : cmd.toNat % 2 ^ 28 = 0 := by
    have := congrArg BitVec.toNat h
    rw [extractLsb'_eq_div_mod] at this
    simpa using this
  have hc := cmd.isLt
  rw [formatD_toNat]
  simp only [opcOf, extractLsb'_eq_div_mod]
  omega

end Sys2Proof
end

