-- ==== Sys2Proof/Laws/Step.lean ====
section
/-! SUPPORT. What `fetch` finds, and what each command does at each of its steps: one lemma a step, which the proofs about
commands cite instead of unfolding a meaning. -/

namespace Sys2Proof.Machine

/-! ### What a step finds to do -/

theorem fetch_reset {s : State} {rest : List HostInput} (h : s.inbox = .reset :: rest) :
    fetch s = .reset (s.setInbox rest) := by
  simp [fetch, h]

theorem fetch_command {s : State} {cmd data : Word} {rest : List HostInput} {i : Instr} (hs : s.seq = .idle)
    (h : s.inbox = .command cmd data :: rest) (hd : decode cmd data = .ok i) :
    fetch s = .run i (s.setInbox rest) := by
  simp [fetch, h, hs, hd]

theorem fetch_illegal {s : State} {cmd data : Word} {rest : List HostInput} {e : Reject} (hs : s.seq = .idle)
    (h : s.inbox = .command cmd data :: rest) (hd : decode cmd data = .error e) :
    fetch s = .illegal (s.setInbox rest) := by
  simp [fetch, h, hs, hd]

theorem proceed_run {s : State} {i : Instr} (hs : s.seq ≠ .idle) (hd : decode s.cmd s.data = .ok i) :
    proceed s = .run i s := by
  simp [proceed, hs, hd]

/-- Everything `fetch` can find: the state it answers differs from the given one in the inbox only. -/
theorem fetch_cases (s : State) :
    (∃ rest, s.inbox = .reset :: rest ∧ fetch s = .reset (s.setInbox rest)) ∨
    (∃ cmd data rest, s.seq = .idle ∧ s.inbox = .command cmd data :: rest ∧
      ((∃ i, decode cmd data = .ok i ∧ fetch s = .run i (s.setInbox rest)) ∨
        (∃ e, decode cmd data = .error e ∧ fetch s = .illegal (s.setInbox rest)))) ∨
    (s.inbox.head? ≠ some .reset ∧ ∃ rest,
      (rest = if s.inbox.head? = some .pass then s.inbox.tail else s.inbox) ∧
      ((s.seq = .idle ∧ fetch s = .idle (s.setInbox rest)) ∨
        (s.seq ≠ .idle ∧ ((∃ i, decode s.cmd s.data = .ok i ∧ fetch s = .run i (s.setInbox rest)) ∨
          (∃ e, decode s.cmd s.data = .error e ∧ fetch s = .corrupt))))) := by
  have hself : s.setInbox s.inbox = s := rfl
  cases h : s.inbox with
  | nil =>
    refine .inr (.inr ⟨by simp, [], by simp, ?_⟩)
    rw [h] at hself
    by_cases hs : s.seq = .idle
    · simp [fetch, proceed, h, hs, hself]
    · cases hd : decode s.cmd s.data <;> simp [fetch, proceed, h, hs, hd, hself]
  | cons x rest =>
    cases x with
    | reset => exact .inl ⟨rest, rfl, fetch_reset h⟩
    | pass =>
      refine .inr (.inr ⟨by simp, rest, by simp, ?_⟩)
      by_cases hs : s.seq = .idle
      · simp [fetch, proceed, h, hs]
      · cases hd : decode s.cmd s.data <;> simp [fetch, proceed, h, hs, hd]
    | command cmd data =>
      by_cases hs : s.seq = .idle
      · refine .inr (.inl ⟨cmd, data, rest, hs, rfl, ?_⟩)
        cases hd : decode cmd data with
        | ok i => exact .inl ⟨i, rfl, fetch_command hs h hd⟩
        | error e => exact .inr ⟨e, rfl, fetch_illegal hs h hd⟩
      · refine .inr (.inr ⟨by simp, .command cmd data :: rest, by simp, ?_⟩)
        rw [h] at hself
        cases hd : decode s.cmd s.data <;> simp [fetch, proceed, h, hs, hd, hself]

/-! ### What a command does at a step of its own -/

section
variable {s : State}

theorem exec_bfRead_bfRd (d : BitField) (data : Word) (h : s.seq = .bfRd) :
    exec (.bfRead d data) s = fieldRead d s fun v t => .next (t.respond .ok (zext32 v)) := by
  simp [exec, execBfRead, h]

theorem exec_bfWrite_bfRd (d : BitField) (value : Word) (h : s.seq = .bfRd) :
    exec (.bfWrite d value) s = fieldModify d value.toNat .bfWr s := by
  simp [exec, execBfWrite, h]

theorem exec_bfWrite_bfWr (d : BitField) (value : Word) (h : s.seq = .bfWr) :
    exec (.bfWrite d value) s = fieldWriteBack d s fun t => .next (t.respond .ok 0#32) := by
  simp [exec, execBfWrite, h]

theorem exec_rawRead_rawRd (d : RawRegister) (data : Word) (h : s.seq = .rawRd) :
    exec (.rawRead d data) s = rawFetch d s fun u t => .next (t.respond .ok (scalarOf d u)) := by
  simp [exec, execRawRead, h]

theorem exec_rawWrite_rawWr (d : RawRegister) (value : Word) (h : s.seq = .rawWr) :
    exec (.rawWrite d value) s = memWrite d.ra [lowByte value] s fun t => .next (t.respond .ok 0#32) := by
  simp [exec, execRawWrite, h]

theorem exec_init_iId (addr : Word) (h : s.seq = .iId) :
    exec (.init addr) s = rawFetch descWhoAmI s fun id t =>
      if identityMatches t.cfg id then .next (t.setSeq .iSrstRd) else .next (t.raise .deviceNotFound 0#32) := by
  simp [exec, execInit, h]

theorem exec_init_iSrstRd (addr : Word) (h : s.seq = .iSrstRd) :
    exec (.init addr) s = fieldModify (descSrst s.cfg) 1 .iSrstWr s := by
  simp [exec, execInit, h]

theorem exec_init_iSrstWr (addr : Word) (h : s.seq = .iSrstWr) :
    exec (.init addr) s = fieldWriteBack (descSrst s.cfg) s fun t => .next (t.setSeq .iModeRd) := by
  simp [exec, execInit, h]

theorem exec_init_iModeRd (addr : Word) (h : s.seq = .iModeRd) :
    exec (.init addr) s = fieldModify (descMode s.cfg) modeContinuous .iModeWr s := by
  simp [exec, execInit, h]

theorem exec_init_iModeWr (addr : Word) (h : s.seq = .iModeWr) :
    exec (.init addr) s = fieldWriteBack (descMode s.cfg) s fun t => .next (t.setSeq .iPollRd) := by
  simp [exec, execInit, h]

theorem exec_init_iPollRd (addr : Word) (h : s.seq = .iPollRd) :
    exec (.init addr) s = fieldRead (descDrdy s.cfg) s fun rdy t =>
      .next (t.setSeq (if dataReady rdy then .iPrimeRd else .iPollWait)) := by
  simp [exec, execInit, h]

theorem exec_init_iPollWait (addr : Word) (h : s.seq = .iPollWait) : exec (.init addr) s = pollWait s := by
  simp [exec, execInit, h]

theorem exec_init_iPrimeRd (addr : Word) (h : s.seq = .iPrimeRd) :
    exec (.init addr) s = memRead descTemp.ra descTemp.len.toNat s fun _ t => .next (t.completeHandle.respond .ok 0#32) := by
  simp [exec, execInit, h]

theorem exec_tempRead_tRd (data : Word) (h : s.seq = .tRd) :
    exec (.tempRead data) s = rawFetch descTemp s fun u t => .next (t.respond .ok (scalarOf descTemp u)) := by
  simp [exec, execTempRead, h]

theorem exec_alertStatus_aRd (data : Word) (h : s.seq = .aRd) :
    exec (.alertStatus data) s = rawFetch ⟨configurationAddr, false, 2#3⟩ s fun v t =>
      .next (t.respond .ok (zext32 (alertBits t.cfg v))) := by
  simp [exec, execAlertStatus, h]

/-- At `IDLE` a command other than INIT is accepted or refused. -/
theorem exec_idle (i : Instr) (hi : i.isInit = false) (h : s.seq = .idle) : exec i s = accept i s := by
  cases i <;> simp [Instr.isInit] at hi <;>
    simp [exec, execBfRead, execBfWrite, execRawRead, execRawWrite, execTempRead, execAlertStatus, h]

theorem exec_init_idle (addr : Word) (h : s.seq = .idle) : exec (.init addr) s = acceptInit addr s := by
  simp [exec, execInit, h]

/-- A step of a command that is not its delay makes one transaction: what it does is by the far side's reply. -/
theorem exec_transaction (i : Instr) (h : hasStep i s.seq = true) (h' : s.seq ≠ .iPollWait) :
    (∃ ra n k, exec i s = memRead ra n s k) ∨ (∃ ra bs k, exec i s = memWrite ra bs s k) := by
  cases i <;> simp [hasStep] at h
  case bfRead => exact .inl ⟨_, _, _, exec_bfRead_bfRd _ _ h⟩
  case bfWrite =>
    rcases h with h | h
    · exact .inl ⟨_, _, _, exec_bfWrite_bfRd _ _ h⟩
    · exact .inr ⟨_, _, _, exec_bfWrite_bfWr _ _ h⟩
  case rawRead => exact .inl ⟨_, _, _, exec_rawRead_rawRd _ _ h⟩
  case rawWrite => exact .inr ⟨_, _, _, exec_rawWrite_rawWr _ _ h⟩
  case tempRead => exact .inl ⟨_, _, _, exec_tempRead_tRd _ h⟩
  case alertStatus => exact .inl ⟨_, _, _, exec_alertStatus_aRd _ h⟩
  case init =>
    rcases h with ((((((h | h) | h) | h) | h) | h) | h) | h
    · exact .inl ⟨_, _, _, exec_init_iId _ h⟩
    · exact .inl ⟨_, _, _, exec_init_iSrstRd _ h⟩
    · exact .inr ⟨_, _, _, exec_init_iSrstWr _ h⟩
    · exact .inl ⟨_, _, _, exec_init_iModeRd _ h⟩
    · exact .inr ⟨_, _, _, exec_init_iModeWr _ h⟩
    · exact .inl ⟨_, _, _, exec_init_iPollRd _ h⟩
    · exact absurd h h'
    · exact .inl ⟨_, _, _, exec_init_iPrimeRd _ h⟩

/-- A step that is none of the command's own is a fault. -/
theorem exec_foreign (i : Instr) (h : s.seq ≠ .idle) (h' : hasStep i s.seq = false) :
    exec i s = .fault .stepOfAnotherCommand := by
  cases hq : s.seq <;> rw [hq] at h h' <;> cases i <;> simp [hasStep] at h h' <;>
    simp [exec, execBfRead, execBfWrite, execRawRead, execRawWrite, execInit, execTempRead, execAlertStatus, hq]

end

end Sys2Proof.Machine
end

