-- ==== Sys2Proof/Tests/Slice0.lean ====
section
/-! SUPPORT. The model's own tests. Expected values are those of spec/95_test_vectors.md; each test names its vector. Then,
for every statement with hypotheses, a witness that meets them. -/

namespace Sys2Proof.Tests

open Sys2Proof Sys2Proof.Machine

/-! ### WellFormed smoke: one ill-formed term for each check, and the nearest well-formed one -/

/-- Four-byte windows, to reach the checks that two-byte windows hide. -/
def wide : Config := { Config.baseline with wMax := 4 }

/-- A parameter beyond the data path. -/
def tooWide : Config := { Config.baseline with wMax := 7 }

/-- X6: `RW` = 0. -/
theorem test_legal_rw_zero : Instr.legal Config.baseline (.bfRead ⟨1, 0, 0, 0, false⟩ 0) = false := by decide
/-- X5: `RW` = 3 over `W_MAX` = 2, and legal where `W_MAX` = 4. -/
theorem test_legal_rw_over_wMax : Instr.legal Config.baseline (.bfRead ⟨1, 3, 1, 0, false⟩ 0) = false ∧
    Instr.legal wide (.bfRead ⟨1, 3, 1, 0, false⟩ 0) = true := by decide
/-- R93: only `RW` 1 to 4 can ever be legal. -/
theorem test_legal_rw_over_four : Instr.legal tooWide (.bfRead ⟨1, 5, 1, 0, false⟩ 0) = false := by decide
/-- X8: `FW` = 17 of a 16-bit window; `FW` = 16 is the nearest legal. -/
theorem test_legal_fw : Instr.legal Config.baseline (.bfWrite ⟨1, 2, 17, 0, false⟩ 0) = false ∧
    Instr.legal Config.baseline (.bfWrite ⟨1, 2, 16, 0, false⟩ 0) = true := by decide
/-- X9: `SB` + `FW` = 9 of an 8-bit window. -/
theorem test_legal_sb_fw : Instr.legal Config.baseline (.bfWrite ⟨1, 1, 8, 1, false⟩ 0) = false ∧
    Instr.legal Config.baseline (.bfWrite ⟨1, 1, 8, 0, false⟩ 0) = true := by decide
/-- X11: `LEN` = 0. -/
theorem test_legal_len_zero : Instr.legal Config.baseline (.rawRead ⟨0x0F, false, 0⟩ 0) = false := by decide
/-- X12: `LEN` = 3 over `W_MAX` = 2, on the write too. -/
theorem test_legal_len_over_wMax : Instr.legal Config.baseline (.rawWrite ⟨0x0F, true, 3⟩ 0) = false ∧
    Instr.legal Config.baseline (.rawWrite ⟨0x0F, true, 2⟩ 0) = true := by decide
/-- R98: `LEN` over the four bytes of the result. -/
theorem test_legal_len_over_four : Instr.legal tooWide (.rawRead ⟨0x0F, false, 5⟩ 0) = false := by decide
/-- X15: INIT's operand over 7 bits, and the widest that fits. -/
theorem test_legal_init_operand : Instr.legal Config.baseline (.init 0x80) = false ∧
    Instr.legal Config.baseline (.init 0x7F) = true := by decide
/-- X4, A3: ALERT_STATUS without its extension, and with it. -/
theorem test_legal_alert : Instr.legal Config.baseline (.alertStatus 0) = false ∧
    Instr.legal Config.withAlert (.alertStatus 0) = true := by decide

/-! ### Decode: words written out from the spec's encodings -/

/-- E1, by its bit pattern: `0001 0 010 00000001 000001 01101 00000`. -/
theorem test_decode_bfRead : decode 0b00010010000000010000010110100000#32 7#32 =
    .ok (.bfRead ⟨0x01, 2, 1, 13, false⟩ 7) := by decide
/-- E14: `0001 1 010 00010000 010000 00000 00000`, least significant byte first. -/
theorem test_decode_bfRead_lsbf : decode 0b00011010000100000100000000000000#32 0#32 =
    .ok (.bfRead ⟨0x10, 2, 16, 0, true⟩ 0) := by decide
/-- E16: `0010 0 001 00100000 000011 00010 00000`. -/
theorem test_decode_bfWrite : decode 0b00100001001000000000110001000000#32 6#32 =
    .ok (.bfWrite ⟨0x20, 1, 3, 2, false⟩ 6) := by decide
/-- E7: `0011 1 010 00000000 0000000000000000`. -/
theorem test_decode_rawRead : decode 0b00111010000000000000000000000000#32 0#32 =
    .ok (.rawRead ⟨0x00, true, 2⟩ 0) := by decide
/-- E9: `0100 0 001 00100000 0000000000000000`. -/
theorem test_decode_rawWrite : decode 0b01000001001000000000000000000000#32 0x100#32 =
    .ok (.rawWrite ⟨0x20, false, 1⟩ 0x100) := by decide
/-- E10: `0101`, zeros. -/
theorem test_decode_init : decode 0b01010000000000000000000000000000#32 0x48#32 = .ok (.init 0x48) := by decide
/-- E11: `0110`, zeros. -/
theorem test_decode_tempRead : decode 0b01100000000000000000000000000000#32 0#32 = .ok (.tempRead 0) := by decide
/-- E12: `0111`, zeros. -/
theorem test_decode_alertStatus : decode 0b01110000000000000000000000000000#32 0#32 = .ok (.alertStatus 0) := by decide
/-- X1 to X3: reserved opcodes. -/
theorem test_decode_reserved_opcodes : decode 0#32 0#32 = .error (.reservedOpcode 0) ∧
    decode 0x80000000#32 0#32 = .error (.reservedOpcode 8) ∧
    decode 0xF0000000#32 0#32 = .error (.reservedOpcode 15) := by decide
/-- X10, X13, X14: a reserved bit of each format. -/
theorem test_decode_reserved_bits : decode 0x120105A1#32 0#32 = .error (.reservedBits 1) ∧
    decode 0x320F0001#32 0#32 = .error (.reservedBits 3) ∧
    decode 0x60000001#32 0#32 = .error (.reservedBits 6) := by decide
/-- A row's number gives `CMD` in its low word and `DATA` in the word above. -/
theorem test_decodeTableWord : decodeTableWord 64 0x0000004850000000 = some (.init 0x48) ∧
    decodeTableWord 32 0x4850000000 = some (.init 0) := by decide
/-- E3, E8, E13, assembled (R107). -/
theorem test_assemble :
    assemble Config.baseline (.setMode 3) = some (0x22010940#32, 3#32) ∧
    assemble Config.baseline (.rawWrite 0x07 2 true 0x1234) = some (0x4A070000#32, 0x1234#32) ∧
    assemble Config.baseline (.bfWrite 0x10 2 0 4 true 0xF) = some (0x2A101000#32, 0xF#32) := by decide
/-- E1's text (R107). -/
theorem test_text : (AsmLine.bfRead 1 2 13 1 false).text = "BF_READ 1, 2, 13, 1, msbf" := by decide

/-! ### One step of each command -/

/-- A device that holds these bytes, and nothing stored elsewhere. -/
def holding (ra : RegAddr) (bytes : List Byte) : Memory := Memory.store [] 0x48#7 ra bytes

/-- Command `i` in progress at step `q`, with a handle at `0x48`, a device and the far side's moves. -/
def at_ (c : Config) (i : Instr) (q : Seq) (mem : Memory) (moves : List DevMove) : State :=
  { State.resetWith c with
    inited := !i.isInit, seq := q, cmd := encodeCmd i, data := encodeData i, mem := mem, script := moves }

/-- The host has presented a command, and the block has a handle. -/
def presented (i : Instr) (mem : Memory) (moves : List DevMove) : State :=
  { State.reset with inited := true, inbox := [presents i], mem := mem, script := moves }

/-- The responses so far, in a next state. -/
def responsesOf : Result → List Response
  | .next s => s.responses
  | _ => []

/-- The trace, in a next state. -/
def traceOf : Result → List Event
  | .next s => s.trace
  | _ => []

/-- The step the sequencer goes to. -/
def seqOf : Result → Option Seq
  | .next s => some s.seq
  | _ => none

/-- One transaction that succeeds. -/
def quiet : List DevMove := [DevMove.quiet]

/-- One transaction that fails. -/
def failing (c : Cause) : List DevMove := [{ before := [], reply := .fail c, after := [] }]

def getDrdy : BitField := ⟨0x01, 2, 1, 13, false⟩
def modeField : BitField := ⟨0x01, 2, 2, 10, false⟩

/-- B2. -/
theorem test_bfRead_drdy :
    responsesOf (exec (.bfRead getDrdy 0) (at_ .baseline (.bfRead getDrdy 0) .bfRd (holding 1 [0x22, 0x20]) quiet)) =
      [⟨.ok, 1⟩] := by decide
/-- B5: least significant byte first. -/
theorem test_bfRead_lsbf :
    responsesOf (exec (.bfRead ⟨0x10, 2, 16, 0, true⟩ 0)
      (at_ .baseline (.bfRead ⟨0x10, 2, 16, 0, true⟩ 0) .bfRd (holding 0x10 [0x01, 0x02]) quiet)) =
      [⟨.ok, 0x201⟩] := by decide
/-- B22: the write-back is most significant byte first, whatever the read was. -/
theorem test_bfWrite_reverses :
    traceOf (exec (.bfWrite ⟨0x10, 2, 4, 0, true⟩ 0xF)
      { at_ .baseline (.bfWrite ⟨0x10, 2, 4, 0, true⟩ 0xF) .bfWr [] quiet with acc := 0x020F }) =
      [.write 0x48 0x10 [0x02, 0x0F]] := by decide
/-- B18 and B21: 7 sets a neighbour, 0x40 leaves the window. -/
theorem test_bfWrite_value_range :
    seqOf (exec (.bfWrite modeField 7) (at_ .baseline (.bfWrite modeField 7) .bfRd (holding 1 [0x02, 0x20]) quiet)) =
      some .bfWr ∧
    responsesOf (exec (.bfWrite modeField 0x40)
      (at_ .baseline (.bfWrite modeField 0x40) .bfRd (holding 1 [0x02, 0x20]) quiet)) = [⟨.valueOverflow, 0⟩] := by decide
/-- R1, R2: the most negative number, signed and unsigned. -/
theorem test_rawRead_sign :
    responsesOf (exec (.rawRead ⟨0, true, 2⟩ 0)
      (at_ .baseline (.rawRead ⟨0, true, 2⟩ 0) .rawRd (holding 0 [0x80, 0x00]) quiet)) = [⟨.ok, 0xFFFF8000⟩] ∧
    responsesOf (exec (.rawRead ⟨0, false, 2⟩ 0)
      (at_ .baseline (.rawRead ⟨0, false, 2⟩ 0) .rawRd (holding 0 [0x80, 0x00]) quiet)) = [⟨.ok, 0x8000⟩] := by decide
/-- R8: the failure's cause comes back. -/
theorem test_rawRead_fails :
    responsesOf (exec (.rawRead ⟨0, true, 2⟩ 0) (at_ .baseline (.rawRead ⟨0, true, 2⟩ 0) .rawRd [] (failing 2))) =
      [⟨.busIOError, 2⟩] := by decide
/-- W1: one byte of a two-byte register. -/
theorem test_rawWrite_one_byte :
    traceOf (exec (.rawWrite ⟨7, true, 2⟩ 0x1234) (at_ .baseline (.rawWrite ⟨7, true, 2⟩ 0x1234) .rawWr [] quiet)) =
      [.write 0x48 0x07 [0x34]] := by decide
/-- I2: the identity's bytes exchanged. -/
theorem test_init_exchanged_identity :
    responsesOf (exec (.init 0x48) (at_ .baseline (.init 0x48) .iId (holding 0x0F [0x17, 0x01]) quiet)) =
      [⟨.deviceNotFound, 0⟩] := by decide
/-- P1: the poll of `[0x02, 0x20]` waits and that of `[0x22, 0x20]` goes on to the priming read. -/
theorem test_init_polls :
    seqOf (exec (.init 0x48) (at_ .baseline (.init 0x48) .iPollRd (holding 1 [0x02, 0x20]) quiet)) = some .iPollWait ∧
    seqOf (exec (.init 0x48) (at_ .baseline (.init 0x48) .iPollRd (holding 1 [0x22, 0x20]) quiet)) =
      some .iPrimeRd := by decide
/-- T2. -/
theorem test_tempRead_negative :
    responsesOf (exec (.tempRead 0) (at_ .baseline (.tempRead 0) .tRd (holding 0 [0xFF, 0x80]) quiet)) =
      [⟨.ok, 0xFFFFFF80⟩] := by decide
/-- A2. -/
theorem test_alertStatus_high :
    responsesOf (exec (.alertStatus 0) (at_ .withAlert (.alertStatus 0) .aRd (holding 1 [0x82, 0x20]) quiet)) =
      [⟨.ok, 2⟩] := by decide
/-- X17: `IllegalCommand` wins over `NotReady` (R209). -/
theorem test_illegal_before_notReady :
    responsesOf (step { State.reset with inbox := [.command 0x13010400 0] }) = [⟨.illegalCommand, 0⟩] := by decide
/-- X16, as the host places it. -/
theorem test_withFetchWord : responsesOf (step (State.reset.withFetchWord 32 0x60000000)) = [⟨.notReady, 0⟩] := by decide

/-! ### Witnesses -/

theorem witness_EncodeOfDecodeIsThePair : decode 0x220105A0#32 0xFFFFFFFF#32 =
    .ok (.bfWrite getDrdy 0xFFFFFFFF) := by decide

theorem witness_WordsSelectOneRow :
    (⟨0x10000000#32, 0xF000001F#32⟩ : OpcodeRow) ∈ opcodeRows ∧
    (⟨0x10000000#32, 0xF000001F#32⟩ : OpcodeRow).selects 0x1FFFFFE0#32 = true := by decide

theorem witness_FoldsAreTheSums : 0xFFFF < 2 ^ (8 * 2) ∧ 1 < 2 ∧ 0 < 2 := by decide

/-- Signed and unsigned, at the values where the sign changes and at the ends. -/
theorem witness_ScalarsAreTwosComplement :
    let s : RawRegister := ⟨0, true, 2⟩
    let u : RawRegister := ⟨0, false, 4⟩
    (1 ≤ s.len.toNat ∧ s.len.toNat ≤ 4 ∧ 0x7FFF < 2 ^ (8 * s.len.toNat) ∧ 0x8000 < 2 ^ (8 * s.len.toNat) ∧
      s.sgn = true) ∧
    (1 ≤ u.len.toNat ∧ u.len.toNat ≤ 4 ∧ 0xFFFFFFFF < 2 ^ (8 * u.len.toNat) ∧ u.sgn = false) := by decide

theorem witness_WideValuesSetNeighbours :
    modeField.sb.toNat + modeField.fw.toNat ≤ 8 * modeField.rw.toNat ∧ 0xFFFF < 2 ^ (8 * modeField.rw.toNat) := by decide

/-- A reset in the middle of a poll. -/
theorem witness_ResetValues :
    let s := { at_ .baseline (.init 0x49) .iPollRd [] [] with inbox := [.reset] }
    s.cfg = Config.baseline ∧ s.inbox = .reset :: [] := by decide

theorem witness_BlockResetFromAnyState :
    (at_ .baseline (.init 0x48) .iPollWait [] []).seq = .iPollWait ∧
    ({ at_ .baseline (.init 0x48) .iPollWait [] [] with inbox := [.reset, .pass] } : State).inbox =
      .reset :: [.pass] := by decide

/-- A presented command; one in progress with a `pass`; one in progress with a command waiting. -/
theorem witness_StepRunsTheDecodedCommand :
    (let s := presented (.bfRead getDrdy 0) [] []
     s.seq = .idle ∧ s.inbox = .command 0x120105A0#32 0#32 :: [] ∧
      decode 0x120105A0#32 0#32 = .ok (.bfRead getDrdy 0)) ∧
    (let s := { at_ .baseline (.tempRead 0) .tRd [] [] with inbox := [.pass] }
     s.seq ≠ .idle ∧ s.inbox.head? ≠ some .reset ∧ decode s.cmd s.data = .ok (.tempRead 0)) ∧
    (let s := { at_ .baseline (.tempRead 0) .tRd [] [] with inbox := [.command 0 0] }
     s.seq ≠ .idle ∧ s.inbox.head? ≠ some .reset ∧ decode s.cmd s.data = .ok (.tempRead 0)) := by decide

/-- X5 beside its nearest legal word, and X15 beside its: the boundary of each clause. -/
theorem witness_DecodeOutcomesInOrder :
    Config.baseline.wMax ≤ 4 ∧ State.reset.seq = .idle ∧
    IllegalWord Config.baseline 0x13010400 0 ∧ ¬ IllegalWord Config.baseline 0x12010400 0 ∧ 0x12010400 / 2 ^ 28 ≠ 5 ∧
    State.reset.inited = false ∧ (presented (.bfRead getDrdy 0) [] []).inited = true ∧
    IllegalWord Config.baseline 0x50000000 0x80 ∧ ¬ IllegalWord Config.baseline 0x50000000 0x7F ∧
    0x50000000 / 2 ^ 28 = 5 := by
  refine ⟨by decide, by decide, ?_, ?_, by decide, by decide, by decide, ?_, ?_, by decide⟩ <;>
    simp only [IllegalWord] <;> decide

theorem witness_CommandsDoNotOverlap :
    (let s := { at_ .baseline (.init 0x48) .iPollWait [] [] with inbox := [.command 0x60000000 0] }
     s.seq ≠ .idle ∧ s.inbox = .command 0x60000000 0 :: [] ∧ ∃ t, step s = .next t) ∧
    State.reset.seq = .idle ∧ State.reset.inbox = [] :=
  ⟨⟨by decide, by decide, _, rfl⟩, by decide, by decide⟩

theorem witness_RefusalsChangeNothing :
    State.reset.seq = .idle ∧ Instr.legal State.reset.cfg (.init 0x80) = false ∧
    Instr.legal State.reset.cfg (.tempRead 0) = true ∧ (∀ addr, Instr.tempRead 0 ≠ .init addr) ∧
    State.reset.inited = false :=
  ⟨by decide, by decide, by decide, by simp, by decide⟩

theorem witness_AcceptedCommandsStart :
    let s := presented (.rawWrite ⟨7, true, 2⟩ 0x1234) [] []
    s.seq = .idle ∧ (∀ addr, Instr.rawWrite ⟨7, true, 2⟩ 0x1234 ≠ .init addr) ∧ s.inited = true ∧
    Instr.legal s.cfg (.rawWrite ⟨7, true, 2⟩ 0x1234) = true :=
  ⟨by decide, by simp, by decide, by decide⟩

theorem witness_InitAcceptanceOpensTheHandle : State.reset.seq = .idle ∧ (0x7F : Word).toNat < 2 ^ 7 := by decide

/-- B2 and B11. -/
theorem witness_BfReadReturnsTheField :
    (let s := at_ .baseline (.bfRead getDrdy 0) .bfRd (holding 1 [0x22, 0x20]) quiet
     s.seq = .bfRd ∧ s.move.reply = .ok) ∧
    (let s := at_ .baseline (.bfRead getDrdy 0) .bfRd [] (failing 7)
     s.seq = .bfRd ∧ s.move.reply = .fail 7) := by decide

/-- Both halves; on the read half `0x3F` is the largest value that fits and `0x40` the least that does not. -/
theorem witness_BfWriteReadsModifiesWrites :
    (let s := at_ .baseline (.bfWrite modeField 0x3F) .bfRd (holding 1 [0x02, 0x20]) quiet
     modeField.legal s.cfg = true ∧ s.move.reply = .ok ∧ s.seq = .bfRd ∧
     clearBits (fold false (s.sees 1 2)) (((1 <<< 2) - 1) <<< 10) ||| (0x3F <<< 10) < 2 ^ (8 * 2) ∧
     2 ^ (8 * 2) ≤ clearBits (fold false (s.sees 1 2)) (((1 <<< 2) - 1) <<< 10) ||| (0x40 <<< 10)) ∧
    (let s := at_ .baseline (.bfWrite modeField 3) .bfWr [] quiet
     modeField.legal s.cfg = true ∧ s.move.reply = .ok ∧ s.seq = .bfWr) ∧
    (let s := at_ .baseline (.bfWrite modeField 3) .bfWr [] (failing 9)
     modeField.legal s.cfg = true ∧ s.move.reply = .fail 9 ∧ s.seq = .bfWr) := by decide

theorem witness_RawReadReturnsTheScalar :
    let s := at_ .baseline (.rawRead ⟨0, true, 2⟩ 0) .rawRd (holding 0 [0x80, 0x00]) quiet
    s.seq = .rawRd ∧ (⟨0, true, 2⟩ : RawRegister).legal s.cfg = true ∧ (⟨0, false, 1⟩ : RawRegister).legal s.cfg = true ∧
    s.move.reply = .ok ∧
    (at_ .baseline (.rawRead ⟨0, true, 2⟩ 0) .rawRd [] (failing 2)).move.reply = .fail 2 := by decide

theorem witness_RawWriteSendsOneByte :
    let s := at_ .baseline (.rawWrite ⟨7, true, 2⟩ 0x1234) .rawWr [] quiet
    s.seq = .rawWr ∧ s.move.reply = .ok ∧
    (at_ .baseline (.rawWrite ⟨7, true, 2⟩ 0x1234) .rawWr [] (failing 3)).move.reply = .fail 3 := by decide

/-- An identity that matches and one that does not. -/
theorem witness_InitChecksTheIdentity :
    (let s := at_ .baseline (.init 0x48) .iId (holding 0x0F [0x01, 0x17]) quiet
     s.seq = .iId ∧ s.move.reply = .ok ∧ foldMsb (s.sees 0x0F 2) = s.cfg.idExpect.toNat) ∧
    (let s := at_ .baseline (.init 0x48) .iId (holding 0x0F [0x01, 0x00]) quiet
     s.seq = .iId ∧ s.move.reply = .ok ∧ foldMsb (s.sees 0x0F 2) ≠ s.cfg.idExpect.toNat) ∧
    (let s := at_ .baseline (.init 0x48) .iId [] (failing 5)
     s.seq = .iId ∧ s.move.reply = .fail 5) := by decide

/-- Both halves, and a read that fails. -/
theorem witness_InitRequestsTheSoftReset :
    (let s := at_ .baseline (.init 0x48) .iSrstRd (holding 1 [0x02, 0x20]) quiet
     s.cfg.wf = true ∧ s.move.reply = .ok ∧ s.seq = .iSrstRd) ∧
    (let s := at_ .baseline (.init 0x48) .iSrstWr [] quiet
     s.cfg.wf = true ∧ s.move.reply = .ok ∧ s.seq = .iSrstWr) ∧
    (let s := at_ .baseline (.init 0x48) .iSrstRd [] (failing 0xA1)
     s.cfg.wf = true ∧ s.move.reply = .fail 0xA1 ∧ s.seq = .iSrstRd) := by decide

/-- Both halves, and a write that fails. -/
theorem witness_InitSetsContinuousConversion :
    (let s := at_ .baseline (.init 0x48) .iModeRd (holding 1 [0x02, 0x20]) quiet
     s.cfg.wf = true ∧ s.move.reply = .ok ∧ s.seq = .iModeRd) ∧
    (let s := at_ .baseline (.init 0x48) .iModeWr [] quiet
     s.cfg.wf = true ∧ s.move.reply = .ok ∧ s.seq = .iModeWr) ∧
    (let s := at_ .baseline (.init 0x48) .iModeWr [] (failing 0xA1)
     s.cfg.wf = true ∧ s.move.reply = .fail 0xA1 ∧ s.seq = .iModeWr) := by decide

/-- A poll that finds the bit 0, one that finds it 1, and the delay. -/
theorem witness_InitPollsDataReady :
    (let s := at_ .baseline (.init 0x48) .iPollRd (holding 1 [0x02, 0x20]) quiet
     s.seq = .iPollRd ∧ s.move.reply = .ok ∧ (foldMsb (s.sees 1 2) >>> s.cfg.drdySb.toNat) % 2 = 0) ∧
    (let s := at_ .baseline (.init 0x48) .iPollRd (holding 1 [0x22, 0x20]) quiet
     s.seq = .iPollRd ∧ s.move.reply = .ok ∧ (foldMsb (s.sees 1 2) >>> s.cfg.drdySb.toNat) % 2 = 1) ∧
    (let s := at_ .baseline (.init 0x48) .iPollRd [] (failing 6)
     s.seq = .iPollRd ∧ s.move.reply = .fail 6) ∧
    (at_ .baseline (.init 0x48) .iPollWait [] []).seq = .iPollWait := by decide

theorem witness_InitCompletesAfterThePrimingRead :
    let s := at_ .baseline (.init 0x48) .iPrimeRd (holding 0 [0x0C, 0x80]) quiet
    s.seq = .iPrimeRd ∧ s.move.reply = .ok ∧
    (at_ .baseline (.init 0x48) .iPrimeRd [] (failing 6)).move.reply = .fail 6 := by decide

theorem witness_TempReadReturnsTheRawTemperature :
    let s := at_ .baseline (.tempRead 0) .tRd (holding 0 [0x80, 0x00]) quiet
    s.seq = .tRd ∧ s.move.reply = .ok ∧
    (at_ .baseline (.tempRead 0) .tRd [] (failing 4)).move.reply = .fail 4 := by decide

theorem witness_AlertStatusReturnsTheFlags :
    let s := at_ .withAlert (.alertStatus 0) .aRd (holding 1 [0x82, 0x20]) quiet
    s.seq = .aRd ∧ s.move.reply = .ok ∧
    (at_ .withAlert (.alertStatus 0) .aRd [] (failing 1)).move.reply = .fail 1 := by decide

/-- A read that fails and a write that fails. -/
theorem witness_TransportFailuresEndTheCommand :
    (let s := at_ .baseline (.bfWrite modeField 3) .bfRd [] (failing 7)
     hasStep (.bfWrite modeField 3) s.seq = true ∧ s.seq ≠ .iPollWait ∧ s.move.reply = .fail 7) ∧
    (let s := at_ .baseline (.init 0x48) .iModeWr [] (failing 0xA1)
     hasStep (.init 0x48) s.seq = true ∧ s.seq ≠ .iPollWait ∧ s.move.reply = .fail 0xA1) := by decide

/-- The last transaction of INIT, and one in the middle. -/
theorem witness_FailedTransactionsAreTheStepsOwn :
    (let s := at_ .baseline (.init 0x48) .iPrimeRd [] (failing 6)
     hasStep (.init 0x48) s.seq = true ∧ s.seq ≠ .iPollWait ∧ s.move.reply = .fail 6) ∧
    (let s := at_ .baseline (.bfWrite modeField 3) .bfWr [] (failing 9)
     hasStep (.bfWrite modeField 3) s.seq = true ∧ s.seq ≠ .iPollWait ∧ s.move.reply = .fail 9) := by decide

theorem witness_TheBlockWaitsForTheTransport :
    let s := at_ .baseline (.init 0x48) .iPrimeRd [] [{ before := [], reply := .pending, after := [] }]
    hasStep (.init 0x48) s.seq = true ∧ s.seq ≠ .iPollWait ∧ s.move.reply = .pending := by decide

theorem witness_ResetMeetsTheInvariant : Config.withAlert.wf = true ∧ wide.wf = true := by decide

/-- A BF_WRITE before its write-back meets the invariant. -/
def midway : State := { at_ .baseline (.bfWrite modeField 3) .bfWr (holding 1 [0x02, 0x20]) quiet with acc := 0xE20 }

theorem midway_inv : midway.Inv := ⟨by decide, by decide, by decide, by decide, by decide⟩

theorem witness_EveryStepKeepsTheInvariant : midway.Inv ∧ ∃ t, step midway = .next t := ⟨midway_inv, _, rfl⟩

theorem witness_InvariantStatesNeverStop : midway.Inv := midway_inv

/-- A transaction that succeeds, one that fails, one that has not returned, and the delay. -/
theorem witness_SequencerFollowsTheTable :
    (midway.cfg.wf = true ∧ midway.seq ≠ .idle ∧ midway.inbox.head? ≠ some .reset ∧
      decode midway.cmd midway.data = .ok (.bfWrite modeField 3) ∧ midway.move.reply = .ok ∧ ∃ t, step midway = .next t) ∧
    (let s := at_ .baseline (.tempRead 0) .tRd [] (failing 4)
     s.cfg.wf = true ∧ s.seq ≠ .idle ∧ s.inbox.head? ≠ some .reset ∧ decode s.cmd s.data = .ok (.tempRead 0) ∧
      s.seq ≠ .iPollWait ∧ s.move.reply = .fail 4 ∧ ∃ t, step s = .next t) ∧
    (let s := at_ .baseline (.tempRead 0) .tRd [] [{ before := [], reply := .pending, after := [] }]
     s.cfg.wf = true ∧ s.seq ≠ .idle ∧ s.inbox.head? ≠ some .reset ∧ decode s.cmd s.data = .ok (.tempRead 0) ∧
      s.seq ≠ .iPollWait ∧ s.move.reply = .pending ∧ ∃ t, step s = .next t) ∧
    (let s := at_ .baseline (.init 0x48) .iPollWait [] []
     s.cfg.wf = true ∧ s.seq ≠ .idle ∧ s.inbox.head? ≠ some .reset ∧ decode s.cmd s.data = .ok (.init 0x48) ∧
      s.seq = .iPollWait ∧ ∃ t, step s = .next t) :=
  ⟨⟨by decide, by decide, by decide, by decide, by decide, _, rfl⟩,
    ⟨by decide, by decide, by decide, by decide, by decide, by decide, _, rfl⟩,
    ⟨by decide, by decide, by decide, by decide, by decide, by decide, _, rfl⟩,
    ⟨by decide, by decide, by decide, by decide, by decide, _, rfl⟩⟩

/-- INIT's acceptance with another address, which moves `DEV_ADDR`, `INITED`, `CMD` and `DATA`; and INIT's completion,
which sets `INITED`. -/
theorem witness_RegistersAreWrittenByTheirWriters :
    (let s := presented (.init 0x49) [] []
     s.inbox.head? ≠ some .reset ∧
      ∃ t, step s = .next t ∧ t.devAddr ≠ s.devAddr ∧ t.inited ≠ s.inited ∧ t.cmd ≠ s.cmd ∧ t.data ≠ s.data) ∧
    (let s := at_ .baseline (.init 0x48) .iPrimeRd (holding 0 [0x0C, 0x80]) quiet
     s.inbox.head? ≠ some .reset ∧ ∃ t, step s = .next t ∧ t.inited ≠ s.inited) :=
  ⟨⟨by decide, _, rfl, by decide, by decide, by decide, by decide⟩, by decide, _, rfl, by decide⟩

theorem witness_OneTransactionAtATime :
    (∃ t, step midway = .next t ∧ t.trace ≠ midway.trace) ∧ State.reset.seq = .idle ∧
    ∃ t, step State.reset = .next t :=
  ⟨⟨_, rfl, by decide⟩, by decide, _, rfl⟩

theorem witness_OneResponseForEachCommand :
    midway.inbox.head? ≠ some .reset ∧ midway.seq ≠ .idle ∧ ∃ t, step midway = .next t ∧ t.responses ≠ midway.responses :=
  ⟨by decide, by decide, _, rfl, by decide⟩

/-- Two states after different commands, with one more to come. -/
theorem witness_WorkingRegistersCarryNothingOver :
    let s := presented (.tempRead 0) (holding 0 [0x0C, 0x80]) quiet
    let s' := { s with cmd := 0x50000000, data := 0x48, buf := [1, 2], acc := 0x102 }
    s.seq = .idle ∧ AgreeButWorking s s' ∧ s ≠ s' ∧ ∃ t, runs 2 s t :=
  ⟨by decide, rfl, by decide, _, _, rfl, _, rfl, rfl⟩

theorem witness_BitFieldRoundTrip :
    let s := { State.reset with
      inited := true, inbox := [presents (.bfWrite modeField 3), presents (.bfRead modeField 0)],
      script := List.replicate 3 DevMove.quiet }
    modeField.legal s.cfg = true ∧ (modeField.lsbf = false ∨ modeField.rw = 1#3) ∧
    (3 : Word).toNat < 2 ^ modeField.fw.toNat ∧ s.seq = .idle ∧ s.inited = true ∧
    s.inbox = [presents (.bfWrite modeField 3), presents (.bfRead modeField 0)] ∧ s.quietFor 3 := by
  unfold State.quietFor
  decide

theorem witness_BfWritePreservesTheRest :
    let s := presented (.bfWrite ⟨0x20, 1, 3, 2, true⟩ 6) (holding 0x20 [0xA5]) [DevMove.quiet, DevMove.quiet]
    (⟨0x20, 1, 3, 2, true⟩ : BitField).legal s.cfg = true ∧ (6 : Word).toNat < 2 ^ 3 ∧ s.seq = .idle ∧ s.inited = true ∧
    s.inbox = [presents (.bfWrite ⟨0x20, 1, 3, 2, true⟩ 6)] ∧ s.quietFor 2 := by
  unfold State.quietFor
  decide

theorem witness_LsbFirstWriteExchangesTheBytes :
    let d : BitField := ⟨0x10, 2, 4, 0, true⟩
    let s := presented (.bfWrite d 1) (holding 0x10 [0x01, 0x02]) [DevMove.quiet, DevMove.quiet]
    d.legal s.cfg = true ∧ d.lsbf = true ∧ d.rw = 2#3 ∧ s.seq = .idle ∧ s.inited = true ∧
    s.inbox = [presents (.bfWrite d 1)] ∧ s.quietFor 2 ∧
    Memory.window s.mem s.devAddr d.ra 2 = [0x01, 0x02] ∧ (1 : Word).toNat = extractField d (256 * 0x02 + 0x01) := by
  unfold State.quietFor
  decide

theorem witness_CommandsOtherThanInitRespond :
    let s := presented (.bfWrite modeField 3) (holding 1 [0x02, 0x20]) (DevMove.quiet :: failing 9)
    (∀ addr, Instr.bfWrite modeField 3 ≠ .init addr) ∧ Instr.legal s.cfg (.bfWrite modeField 3) = true ∧ s.seq = .idle ∧
    s.inited = true ∧ s.inbox = [presents (.bfWrite modeField 3)] ∧ s.answers 2 :=
  ⟨by simp, by decide, by decide, by decide, by decide, by unfold State.answers; decide⟩

/-- A move that first puts these bytes into a register. -/
def puts (ra : RegAddr) (bytes : List Byte) : DevMove := { before := [⟨0x48#7, ra, bytes⟩], reply := .ok, after := [] }

theorem shows_puts (ra : RegAddr) (bytes : List Byte) (P : List Byte → Prop) (h : bytes.length ≤ 8) (hP : P bytes) :
    Shows (puts ra bytes) 0x48#7 ra bytes.length P :=
  ⟨rfl, fun mem => by
    have := Memory.window_store_same mem 0x48#7 ra bytes h
    simpa [puts, Memory.change, this] using hP⟩

/-- Program P1: two polls not ready, the third ready. -/
theorem witness_InitCompletesAfterNotReadyPolls :
    let polls := [puts 1 [0x02, 0x20], puts 1 [0x02, 0x20]]
    let s := { State.reset with
      inbox := [presents (.init 0x48)],
      script := [puts 0x0F [0x01, 0x17], .quiet, .quiet, .quiet, .quiet] ++ polls ++
        [puts 1 [0x22, 0x20], .quiet] ++ [] }
    s.cfg.wf = true ∧ (0x48 : Word).toNat < 2 ^ 7 ∧ s.seq = .idle ∧ s.inbox = [presents (.init 0x48)] ∧
    Shows (puts 0x0F [0x01, 0x17]) 0x48#7 0x0F#8 2 (fun bytes => foldMsb bytes = s.cfg.idExpect.toNat) ∧
    DevMove.quiet.reply = .ok ∧
    (∀ m ∈ polls, Shows m 0x48#7 0x01#8 2 (fun bytes => (foldMsb bytes >>> s.cfg.drdySb.toNat) % 2 = 0)) ∧
    Shows (puts 1 [0x22, 0x20]) 0x48#7 0x01#8 2 (fun bytes => (foldMsb bytes >>> s.cfg.drdySb.toNat) % 2 = 1) := by
  refine ⟨by decide, by decide, by decide, by decide, shows_puts _ [0x01, 0x17] _ (by decide) (by decide), by decide, ?_,
    shows_puts _ [0x22, 0x20] _ (by decide) (by decide)⟩
  intro m hm
  have : m = puts 1 [0x02, 0x20] := by simpa using hm
  subst this
  exact shows_puts _ [0x02, 0x20] _ (by decide) (by decide)

/-- Two rounds, with a command waiting at the port. -/
theorem witness_InitPollHasNoBound :
    let moves := [puts 1 [0x02, 0x20], puts 1 [0xDF, 0xFF]]
    let s := { at_ .baseline (.init 0x48) .iPollRd [] moves with inbox := [.command 0x60000000 0] }
    s.seq = .iPollRd ∧ decode s.cmd s.data = .ok (.init 0x48) ∧ s.inbox.head? ≠ some .reset ∧
    s.inbox.head? ≠ some .pass ∧ 2 ≤ s.script.length ∧
    ∀ m ∈ s.script.take 2,
      Shows m s.devAddr 0x01#8 2 (fun bytes => (foldMsb bytes >>> s.cfg.drdySb.toNat) % 2 = 0) := by
  refine ⟨by decide, by decide, by decide, by decide, by decide, ?_⟩
  intro m hm
  have : m = puts 1 [0x02, 0x20] ∨ m = puts 1 [0xDF, 0xFF] := by simpa [at_] using hm
  rcases this with rfl | rfl
  · exact shows_puts _ [0x02, 0x20] _ (by decide) (by decide)
  · exact shows_puts _ [0xDF, 0xFF] _ (by decide) (by decide)

/-- Program P3: identity `0x100`. -/
theorem witness_WrongIdentityEndsInit :
    let s := { State.reset with inbox := [presents (.init 0x48)], script := [puts 0x0F [0x01, 0x00]] }
    (0x48 : Word).toNat < 2 ^ 7 ∧ s.seq = .idle ∧ s.inbox = [presents (.init 0x48)] ∧
    s.script = puts 0x0F [0x01, 0x00] :: [] ∧
    Shows (puts 0x0F [0x01, 0x00]) 0x48#7 0x0F#8 2 (fun bytes => foldMsb bytes ≠ s.cfg.idExpect.toNat) :=
  ⟨by decide, by decide, by decide, by decide, shows_puts _ [0x01, 0x00] _ (by decide) (by decide)⟩

end Sys2Proof.Tests
end

section
/-! PROOFS. The byte-array arithmetic of R21: the two folds as sums of shifted bytes, and the bytes of `be_bytes`. -/

namespace Sys2Proof.Machine

/-- The first byte of `fold_msb` is the most significant one (R21). -/
theorem foldMsb_cons (b : Byte) (bs : List Byte) :
    foldMsb (b :: bs) = b.toNat <<< (8 * bs.length) + foldMsb bs := by
  induction bs using List.reverseRecOn with
  | nil => simp [foldMsb]
  | append_singleton bs c ih =>
    have hpow : 2 ^ (8 * (bs.length + 1)) = 2 ^ (8 * bs.length) * 256 := by rw [Nat.mul_add, Nat.pow_add]
    rw [← List.cons_append, foldMsb_append, foldMsb_append, ih, List.length_append, List.length_singleton,
      Nat.shiftLeft_eq, Nat.shiftLeft_eq, hpow]
    ring

@[simp] theorem foldLsb_nil : foldLsb [] = 0 := rfl

/-- The first byte of `fold_lsb` is the least significant one (R21). -/
theorem foldLsb_cons (b : Byte) (bs : List Byte) : foldLsb (b :: bs) = b.toNat + foldLsb bs <<< 8 := by
  rw [foldLsb, List.reverse_cons, foldMsb_append, ← foldLsb, Nat.shiftLeft_eq, Nat.add_comm]

@[simp] theorem fold_true (bs : List Byte) : fold true bs = foldLsb bs := rfl

@[simp] theorem fold_false (bs : List Byte) : fold false bs = foldMsb bs := rfl

/-- `fold_msb` as the sum of R21: byte `i` stands `n - 1 - i` bytes up. -/
theorem foldMsb_eq_sum (bs : List Byte) :
    foldMsb bs = ∑ i : Fin bs.length, bs[i].toNat <<< (8 * (bs.length - 1 - i)) := by
  induction bs with
  | nil => rfl
  | cons b bs ih =>
    have hshift (i : Nat) : bs.length - 1 - i = bs.length - (i + 1) := by omega
    rw [foldMsb_cons, ih]
    simp [Fin.sum_univ_succ, hshift]

/-- `fold_lsb` as the sum of R21: byte `i` stands `i` bytes up. -/
theorem foldLsb_eq_sum (bs : List Byte) :
    foldLsb bs = ∑ i : Fin bs.length, bs[i].toNat <<< (8 * i.val) := by
  induction bs with
  | nil => rfl
  | cons b bs ih =>
    have hshift (i : Fin bs.length) :
        bs[i].toNat <<< (8 * i.val) * 2 ^ 8 = bs[i].toNat <<< (8 * (i.val + 1)) := by
      rw [← Nat.shiftLeft_eq _ 8, ← Nat.shiftLeft_add, Nat.mul_add]
    rw [foldLsb_cons, ih, Nat.shiftLeft_eq, Finset.sum_mul, Finset.sum_congr rfl fun i _ => hshift i]
    simp [Fin.sum_univ_succ]

/-- Byte `i` of `be_bytes`, with the mask R21 writes. -/
theorem beBytes_getElem? (v : Nat) {n i : Nat} (hi : i < n) :
    (beBytes v n)[i]? = some (BitVec.ofNat 8 ((v >>> (8 * (n - 1 - i))) &&& 0xFF)) := by
  have hmask (x : Nat) : BitVec.ofNat 8 (x &&& 0xFF) = BitVec.ofNat 8 x := by
    apply BitVec.eq_of_toNat_eq
    rw [Nat.and_two_pow_sub_one_eq_mod x 8, BitVec.toNat_ofNat, BitVec.toNat_ofNat, Nat.mod_mod]
  rw [hmask, beBytes, List.getElem?_map, List.getElem?_range hi, Option.map_some]

/-- Settles O7: the sums by induction on the array, the inverses by the laws of `be_bytes` (R21). -/
theorem foldsAreTheSums : Obligations.FoldsAreTheSums :=
  ⟨fun bs => ⟨foldMsb_eq_sum bs, foldLsb_eq_sum bs, fold_true bs, fold_false bs, beBytes_foldMsb bs⟩,
    fun v n hv => ⟨foldMsb_beBytes v n hv, beBytes_length v n, fun _ hi => beBytes_getElem? v hi⟩⟩

end Sys2Proof.Machine
end

section
/-! PROOFS. The constants of the register map (R43 to R48), and the block's reset (R56, R230). -/

namespace Sys2Proof.Machine

/-- Settles O12: each constant at the baseline's bit positions, and each mask evaluated from its descriptor (R22, R41). -/
theorem descriptorConstants : Obligations.DescriptorConstants :=
  have drdy : maskOf (descDrdy Config.baseline) = 0x2000 := by decide
  have mode : maskOf (descMode Config.baseline) = 0x0C00 := by decide
  have srst : maskOf (descSrst Config.baseline) = 0x0002 := by decide
  ⟨rfl, drdy, rfl, mode, rfl, srst, rfl, rfl, rfl, rfl, rfl⟩

/-- A presented reset is taken from the host's plan and resets the block, whatever the block was doing (R230). -/
theorem step_reset {s : State} {rest : List HostInput} (h : s.inbox = .reset :: rest) :
    step s = .next (s.setInbox rest).blockReset := by
  rw [step, fetch_reset h]

/-- Settles O13: the laws of `resetWith` at power-on, and of `blockReset` at the step the reset takes (R56). -/
theorem resetValues : Obligations.ResetValues := by
  refine ⟨⟨State.resetWith_seq _, State.resetWith_inited _, State.resetWith_devAddr _, State.resetWith_responses _⟩, ?_⟩
  intro s rest hcfg hinbox
  have haddr : (s.setInbox rest).blockReset.devAddr = 0x48#7 := by
    rw [State.blockReset_devAddr, State.setInbox_cfg, hcfg, Config.baseline]
  refine ⟨(s.setInbox rest).blockReset, step_reset hinbox, State.blockReset_seq _, State.blockReset_inited _, haddr, ?_, ?_⟩
  · rw [State.blockReset_responses, State.setInbox_responses]
  · intro a
    rw [State.blockReset_mem, State.setInbox_mem]

end Sys2Proof.Machine
end

section
/-! PROOFS. The decoder as one test of the selected row's reserved bits, the conditions of `IllegalCommand` on a word as
the range checks on its command, and the acceptance of a presented command (R92, R110, R204, R205). -/

namespace Sys2Proof.Machine

open Sys2Proof.Laws.RowMatch (opcode zeros)

/-! ### The decoder -/

theorem opcOf_toNat (cmd : Word) : (opcOf cmd).toNat = cmd.toNat / 2 ^ 28 := by
  have := cmd.isLt
  rw [opcOf, extractLsb'_eq_div_mod]
  omega

theorem opcOf_eq_iff (cmd : Word) (opc : BitVec 4) : opcOf cmd = opc ↔ cmd.toNat / 2 ^ 28 = opc.toNat := by
  rw [← opcOf_toNat, BitVec.toNat_inj]

theorem zerosBelow_iff (cmd : Word) (n : Nat) : cmd.extractLsb' 0 n = 0#n ↔ cmd.toNat % 2 ^ n = 0 := by
  rw [← BitVec.toNat_inj, extractLsb'_eq_div_mod, BitVec.toNat_zero, Nat.pow_zero, Nat.div_one]

/-- The row a word selects by its opcode, if there is one: the decoder tests that row's reserved bits, and where they are
0 the row's command has that very pair of words (R96, R103, R104, R109). -/
theorem decode_cases (cmd data : Word) :
    (∃ i, cmd.toNat / 2 ^ 28 = opcode i ∧ decode cmd data = unlessReserved cmd (zeros i) i ∧ encodeData i = data ∧
      (cmd.extractLsb' 0 (zeros i) = 0#(zeros i) → encodeCmd i = cmd)) ∨
    (¬ (1 ≤ cmd.toNat / 2 ^ 28 ∧ cmd.toNat / 2 ^ 28 ≤ 7) ∧ decode cmd data = .error (.reservedOpcode (opcOf cmd))) := by
  have hnum (opc : BitVec 4) (h : opcOf cmd = opc) : cmd.toNat / 2 ^ 28 = opc.toNat := (opcOf_eq_iff cmd opc).mp h
  have hB {opc : BitVec 4} (h : opcOf cmd = opc) (hz : cmd.extractLsb' 0 5 = 0#5) :
      formatB opc (bitFieldOf cmd) = cmd := h ▸ formatB_fields cmd hz
  have hR {opc : BitVec 4} (h : opcOf cmd = opc) (hz : cmd.extractLsb' 0 16 = 0#16) :
      formatR opc (rawRegisterOf cmd) = cmd := h ▸ formatR_fields cmd hz
  have hD {opc : BitVec 4} (h : opcOf cmd = opc) (hz : cmd.extractLsb' 0 28 = 0#28) :
      formatD opc = cmd := h ▸ formatD_fields cmd hz
  simp only [decode]
  split_ifs with h1 h2 h3 h4 h5 h6 h7
  · exact .inl ⟨.bfRead (bitFieldOf cmd) data, hnum _ h1, rfl, rfl, hB h1⟩
  · exact .inl ⟨.bfWrite (bitFieldOf cmd) data, hnum _ h2, rfl, rfl, hB h2⟩
  · exact .inl ⟨.rawRead (rawRegisterOf cmd) data, hnum _ h3, rfl, rfl, hR h3⟩
  · exact .inl ⟨.rawWrite (rawRegisterOf cmd) data, hnum _ h4, rfl, rfl, hR h4⟩
  · exact .inl ⟨.init data, hnum _ h5, rfl, rfl, hD h5⟩
  · exact .inl ⟨.tempRead data, hnum _ h6, rfl, rfl, hD h6⟩
  · exact .inl ⟨.alertStatus data, hnum _ h7, rfl, rfl, hD h7⟩
  · refine .inr ⟨?_, rfl⟩
    simp only [opcOf_eq_iff, BitVec.toNat_ofNat] at h1 h2 h3 h4 h5 h6 h7
    omega

/-- A decoded pair is the pair of its command (R109). -/
theorem encode_of_decode_ok {cmd data : Word} {i : Instr} (h : decode cmd data = .ok i) :
    encodeCmd i = cmd ∧ encodeData i = data := by
  rcases decode_cases cmd data with ⟨j, -, hd, hdata, hcmd⟩ | ⟨-, hd⟩
  · rw [hd, unlessReserved] at h
    split_ifs at h with hz
    cases h
    exact ⟨hcmd hz, hdata⟩
  · rw [hd] at h
    cases h

/-! ### The conditions of `IllegalCommand` -/

/-- A set reserved bit of the row a word's opcode selects is a condition of R110. -/
theorem illegalWord_of_reservedBits (c : Config) {cmd : Nat} (data : Nat) {i : Instr} (hopc : cmd / 2 ^ 28 = opcode i)
    (hz : cmd % 2 ^ zeros i ≠ 0) : IllegalWord c cmd data := by
  rw [IllegalWord]
  cases i <;> simp only [opcode, zeros] at hopc hz <;> omega

/-- A word that selects no row meets a condition of R110, whatever the configuration (R103, R104). -/
theorem illegalWord_of_decode_error (c : Config) {cmd data : Word} {e : Reject} (h : decode cmd data = .error e) :
    IllegalWord c cmd.toNat data.toNat := by
  rcases decode_cases cmd data with ⟨i, hopc, hd, -, -⟩ | ⟨hopc, -⟩
  · rw [hd, unlessReserved] at h
    split_ifs at h with hz
    exact illegalWord_of_reservedBits c _ hopc (mt (zerosBelow_iff cmd _).mpr hz)
  · exact .inl ⟨by omega, by omega⟩

theorem bitField_legal_eq_false_iff {c : Config} (hw : c.wMax ≤ 4) (d : BitField) :
    d.legal c = false ↔ d.rw.toNat = 0 ∨ c.wMax < d.rw.toNat ∨ 8 * d.rw.toNat < d.fw.toNat ∨
      8 * d.rw.toNat < d.sb.toNat + d.fw.toNat := by
  rw [← Bool.not_eq_true]
  simp only [BitField.legal, Bool.and_eq_true, decide_eq_true_eq]
  omega

theorem rawRegister_legal_eq_false_iff {c : Config} (hw : c.wMax ≤ 4) (d : RawRegister) :
    d.legal c = false ↔ d.len.toNat = 0 ∨ c.wMax < d.len.toNat := by
  rw [← Bool.not_eq_true]
  simp only [RawRegister.legal, Bool.and_eq_true, decide_eq_true_eq]
  omega

theorem illegalWord_formatB {c : Config} (hw : c.wMax ≤ 4) {opc : BitVec 4} (hopc : opc.toNat = 1 ∨ opc.toNat = 2)
    (d : BitField) (data : Nat) : IllegalWord c (formatB opc d).toNat data ↔ d.legal c = false := by
  have hd := bitFieldOf_formatB opc d
  have hrow : (formatB opc d).toNat / 2 ^ 28 = opc.toNat := (opcOf_eq_iff _ _).mp (opcOf_formatB opc d)
  have hzeros : (formatB opc d).toNat % 2 ^ 5 = 0 := (zerosBelow_iff _ 5).mp (zeros_formatB opc d)
  have hrw := (extractLsb'_eq_div_mod _ 24 3).symm.trans (congrArg (·.rw.toNat) hd)
  have hfw := (extractLsb'_eq_div_mod _ 10 6).symm.trans (congrArg (·.fw.toNat) hd)
  have hsb := (extractLsb'_eq_div_mod _ 5 5).symm.trans (congrArg (·.sb.toNat) hd)
  simp only [IllegalWord, hrow, hzeros, hrw, hfw, hsb, bitField_legal_eq_false_iff hw]
  omega

theorem illegalWord_formatR {c : Config} (hw : c.wMax ≤ 4) {opc : BitVec 4} (hopc : opc.toNat = 3 ∨ opc.toNat = 4)
    (d : RawRegister) (data : Nat) : IllegalWord c (formatR opc d).toNat data ↔ d.legal c = false := by
  have hd := rawRegisterOf_formatR opc d
  have hrow : (formatR opc d).toNat / 2 ^ 28 = opc.toNat := (opcOf_eq_iff _ _).mp (opcOf_formatR opc d)
  have hzeros : (formatR opc d).toNat % 2 ^ 16 = 0 := (zerosBelow_iff _ 16).mp (zeros_formatR opc d)
  have hlen := (extractLsb'_eq_div_mod _ 24 3).symm.trans (congrArg (·.len.toNat) hd)
  simp only [IllegalWord, hrow, hzeros, hlen, rawRegister_legal_eq_false_iff hw]
  omega

/-- On the words of a command the conditions of R110 are the range checks of that command (R100 to R103). -/
theorem illegalWord_encode_iff {c : Config} (hw : c.wMax ≤ 4) (i : Instr) :
    IllegalWord c (encodeCmd i).toNat (encodeData i).toNat ↔ Instr.legal c i = false := by
  cases i with
  | bfRead d data => exact illegalWord_formatB hw (.inl rfl) d _
  | bfWrite d value => exact illegalWord_formatB hw (.inr rfl) d _
  | rawRead d data => exact illegalWord_formatR hw (.inl rfl) d _
  | rawWrite d value => exact illegalWord_formatR hw (.inr rfl) d _
  | init addr => simp [IllegalWord, encodeCmd, encodeData, formatD_toNat, Instr.legal, initOperandLegal]
  | tempRead data => simp [IllegalWord, encodeCmd, formatD_toNat, Instr.legal]
  | alertStatus data => simp [IllegalWord, encodeCmd, formatD_toNat, Instr.legal]

/-! ### The opcode of a command, and INIT among the commands -/

/-- The opcode of a command's word (R96). -/
theorem encodeCmd_opcode (i : Instr) : (encodeCmd i).toNat / 2 ^ 28 = opcode i := by
  cases i with
  | bfRead d data => exact (Laws.RowMatch.bfRead d data).1
  | bfWrite d value => exact (Laws.RowMatch.bfWrite d value).1
  | rawRead d data => exact (Laws.RowMatch.rawRead d data).1
  | rawWrite d value => exact (Laws.RowMatch.rawWrite d value).1
  | init addr => exact (Laws.RowMatch.init addr).1
  | tempRead data => exact (Laws.RowMatch.tempRead data).1
  | alertStatus data => exact (Laws.RowMatch.alertStatus data).1

theorem isInit_iff (i : Instr) : i.isInit = true ↔ ∃ addr, i = .init addr := by
  cases i <;> simp [Instr.isInit]

theorem opcode_eq_five_iff (i : Instr) : opcode i = 5 ↔ i.isInit = true := by
  cases i <;> simp [opcode, Instr.isInit]

@[simp] theorem firstStepOf_opcode (i : Instr) : firstStepOf (opcode i) = firstStep i := by
  cases i <;> rfl

/-! ### The acceptance of a presented command -/

/-- A response in `IDLE` leaves `seq` as it is, so a refusal there changes nothing but the responses. -/
theorem raise_of_idle {s : State} (hs : s.seq = .idle) (e : Status) (info : Word) :
    s.raise e info = { s with responses := s.responses ++ [⟨e, info⟩] } := by
  rw [State.raise, State.respond, ← hs]

/-- A command that fails its range checks is refused in `IDLE`, INIT as any other (R204). -/
theorem exec_idle_illegal {s : State} {i : Instr} (hs : s.seq = .idle) (hl : Instr.legal s.cfg i = false) :
    exec i s = .next (s.raise .illegalCommand 0#32) := by
  cases hi : i.isInit with
  | true =>
    obtain ⟨addr, rfl⟩ := (isInit_iff i).mp hi
    rw [exec_init_idle addr hs]
    simpa [hl] using acceptInit_cases addr s
  | false =>
    rw [exec_idle i hi hs]
    simpa [hl] using accept_cases i s

/-- A command other than INIT is refused in `IDLE` while there is no handle (R205). -/
theorem exec_idle_notReady {s : State} {i : Instr} (hs : s.seq = .idle) (hl : Instr.legal s.cfg i = true)
    (hi : i.isInit = false) (hinited : s.inited = false) : exec i s = .next (s.raise .notReady 0#32) := by
  rw [exec_idle i hi hs]
  simpa [hl, hi, hinited] using accept_cases i s

/-- A command other than INIT is latched and starts, where there is a handle (R92, R110). -/
theorem exec_idle_starts {s : State} {i : Instr} (hs : s.seq = .idle) (hl : Instr.legal s.cfg i = true)
    (hi : i.isInit = false) (hinited : s.inited = true) : exec i s = .next ((s.latch i).setSeq (firstStep i)) := by
  rw [exec_idle i hi hs]
  simpa [hl, hi, hinited] using accept_cases i s

/-- INIT is latched and starts, with or without a handle, and opens the handle at its operand (R161, R176). -/
theorem exec_init_idle_starts {s : State} {addr : Word} (hs : s.seq = .idle)
    (hl : Instr.legal s.cfg (.init addr) = true) :
    exec (.init addr) s = .next (((s.latch (.init addr)).openHandle addr).setSeq .iId) := by
  rw [exec_init_idle addr hs]
  simpa [hl] using acceptInit_cases addr s

section
variable {s : State} {cmd data : Word} {rest : List HostInput}

/-- A presented command that decodes is run from the state that has taken it. -/
theorem step_command {i : Instr} (hs : s.seq = .idle) (hin : s.inbox = .command cmd data :: rest)
    (hd : decode cmd data = .ok i) : step s = exec i (s.setInbox rest) := by
  rw [step, fetch_command hs hin hd]

/-- A presented word that selects no row is refused from the state that has taken it (R103, R104). -/
theorem step_reserved {e : Reject} (hs : s.seq = .idle) (hin : s.inbox = .command cmd data :: rest)
    (hd : decode cmd data = .error e) : step s = .next ((s.setInbox rest).raise .illegalCommand 0#32) := by
  rw [step, fetch_illegal hs hin hd]

/-- Where a condition of R110 holds the response is `IllegalCommand`: the word selects no row, or its command fails
a range check. -/
theorem step_illegalWord (hw : s.cfg.wMax ≤ 4) (hs : s.seq = .idle) (hin : s.inbox = .command cmd data :: rest)
    (hill : IllegalWord s.cfg cmd.toNat data.toNat) :
    step s = .next ((s.setInbox rest).raise .illegalCommand 0#32) := by
  cases hd : decode cmd data with
  | error e => exact step_reserved hs hin hd
  | ok i =>
    obtain ⟨rfl, rfl⟩ := encode_of_decode_ok hd
    rw [step_command hs hin hd]
    exact exec_idle_illegal hs ((illegalWord_encode_iff hw i).mp hill)

/-- Where no condition of R110 holds the words are those of a command that passes its range checks. -/
theorem decode_of_not_illegalWord {c : Config} (hw : c.wMax ≤ 4) (hill : ¬ IllegalWord c cmd.toNat data.toNat) :
    ∃ i, decode cmd data = .ok i ∧ Instr.legal c i = true ∧ encodeCmd i = cmd ∧ encodeData i = data := by
  cases hd : decode cmd data with
  | error e => exact absurd (illegalWord_of_decode_error c hd) hill
  | ok i =>
    obtain ⟨rfl, rfl⟩ := encode_of_decode_ok hd
    exact ⟨i, rfl, eq_true_of_ne_false (mt (illegalWord_encode_iff hw i).mpr hill), rfl, rfl⟩

end

/-- Settles O16: `IllegalCommand` by the conditions on the words; where none holds, the words are a legal command's, and
its acceptance is by the handle, or INIT's own (R110). -/
theorem decodeOutcomesInOrder : Obligations.DecodeOutcomesInOrder := by
  intro s cmd data rest hw hs hin
  have hidle : (s.setInbox rest).seq = .idle := hs
  refine ⟨fun hill => ?_, fun hill hopc hinited => ?_, fun hill hopc hinited => ?_, fun hill hopc => ?_⟩
  · rw [step_illegalWord hw hs hin hill, raise_of_idle hidle]
    rfl
  all_goals
    obtain ⟨i, hd, hl, rfl, rfl⟩ := decode_of_not_illegalWord hw hill
    rw [encodeCmd_opcode] at hopc
    rw [step_command hs hin hd]
  · have hi : i.isInit = false := by simpa [opcode_eq_five_iff] using hopc
    rw [exec_idle_notReady hidle hl hi hinited, raise_of_idle hidle]
    rfl
  · have hi : i.isInit = false := by simpa [opcode_eq_five_iff] using hopc
    rw [exec_idle_starts hidle hl hi hinited, encodeCmd_opcode, firstStepOf_opcode]
    rfl
  · obtain ⟨addr, rfl⟩ := (isInit_iff i).mp ((opcode_eq_five_iff i).mp hopc)
    rw [exec_init_idle_starts hidle hl, BitVec.ofNat_toNat]
    simp only [State.setSeq, State.openHandle, State.latch, State.setInbox, encodeData]

end Sys2Proof.Machine
end

section
/-! PROOFS. BF_READ and BF_WRITE (spec/40_bitfield.md): what a transaction keeps and what a failed one leaves, a field read
back after it was inserted, and the two commands run whole against the reference device (R82, R121 to R123). -/

namespace Sys2Proof.Machine

/-! ### A transaction: its frame, and its failure -/

section
variable (s : State) (ra : RegAddr) (n : Nat) (bs : List Byte)

@[simp] theorem State.afterRead_mem : (s.afterRead ra n).mem = Memory.change s.heldMem s.move.after := rfl

@[simp] theorem State.afterWrite_mem :
    (s.afterWrite ra bs).mem = Memory.change (Memory.store s.heldMem s.devAddr ra bs) s.move.after := rfl

/-- Whatever register space it leaves, a transaction keeps the handle, the latches and the host's plan (R57). -/
theorem keeps_afterMove (m : Memory) : Keeps s (s.afterMove m) := ⟨rfl, rfl, rfl, rfl, rfl, rfl, rfl, rfl⟩

theorem keeps_afterRead : Keeps s (s.afterRead ra n) := keeps_afterMove s s.heldMem

theorem keeps_afterWrite : Keeps s (s.afterWrite ra bs) :=
  keeps_afterMove s (Memory.store s.heldMem s.devAddr ra bs)

end

/-- Where only the device's own changes were made, the step stored nothing. -/
theorem storesNothing_of_mem {s t : State} (h : t.mem = Memory.change s.heldMem s.move.after) : StoresNothing s t := by
  refine ⟨fun a => by rw [h, State.heldMem], fun hbefore hafter a => ?_⟩
  rw [h, State.heldMem, hbefore, hafter, Memory.change_nil, Memory.change_nil]

/-- A failed transaction ends the command at any step but INIT's delay, which makes none (R202). -/
theorem endsOnFailure_of_hasStep {i : Instr} {s : State} (h : hasStep i s.seq = true) (h' : s.seq ≠ .iPollWait) :
    EndsOnFailure i s := by
  intro c hc
  rw [BitVec.ofNat_toNat]
  rcases exec_transaction i h h' with ⟨ra, n, k, he⟩ | ⟨ra, bs, k, he⟩
  · exact ⟨_, he.trans (memRead_fail k hc), ⟨rfl, rfl⟩, rfl, keeps_afterMove s s.heldMem, storesNothing_of_mem rfl⟩
  · exact ⟨_, he.trans (memWrite_fail k hc), ⟨rfl, rfl⟩, rfl, keeps_afterMove s s.heldMem, storesNothing_of_mem rfl⟩

/-! ### BF_READ -/

/-- BF_READ where its read succeeds (R121). -/
theorem exec_bfRead_bfRd_ok {s : State} (d : BitField) (data : Word) (hs : s.seq = .bfRd) (hok : s.move.reply = .ok) :
    exec (.bfRead d data) s =
      .next (((s.afterRead d.ra d.rw.toNat).setAcc (fold d.lsbf (s.sees d.ra d.rw.toNat))).respond .ok
        (zext32 (extractField d (fold d.lsbf (s.sees d.ra d.rw.toNat))))) := by
  rw [exec_bfRead_bfRd d data hs, fieldRead_ok d _ hok]

/-- Settles O21: the step of BF_READ by its read's reply; the field's value is below `2 ^ fw` whatever was read (R121). -/
theorem bfReadReturnsTheField : Obligations.BfReadReturnsTheField := by
  intro d data s hs
  have hstep : hasStep (.bfRead d data) s.seq = true := by rw [hs]; rfl
  have hwait : s.seq ≠ .iPollWait := by rw [hs]; decide
  refine ⟨fun hok => ⟨extractField_lt d _, _, exec_bfRead_bfRd_ok d data hs hok, ?_⟩, endsOnFailure_of_hasStep hstep hwait⟩
  exact ⟨⟨rfl, rfl⟩, rfl, rfl, rfl, keeps_afterRead s d.ra d.rw.toNat, storesNothing_of_mem rfl⟩

/-! ### A field inserted in a window, and read back -/

theorem field_inside_of_legal {c : Config} {d : BitField} (h : d.legal c = true) :
    d.rw.toNat ≤ 4 ∧ d.sb.toNat + d.fw.toNat ≤ 8 * d.rw.toNat := by
  simp only [BitField.legal, Bool.and_eq_true, decide_eq_true_eq] at h
  omega

/-- A value in range stays inside the window of a legal descriptor (R122). -/
theorem insertField_lt_of_legal {c : Config} {d : BitField} {reg value : Nat} (hl : d.legal c = true)
    (hr : reg < 2 ^ (8 * d.rw.toNat)) (hv : value < 2 ^ d.fw.toNat) :
    insertField d reg value < 2 ^ (8 * d.rw.toNat) := by
  refine insertField_lt hr ?_
  calc value <<< d.sb.toNat = value * 2 ^ d.sb.toNat := Nat.shiftLeft_eq _ _
    _ < 2 ^ d.fw.toNat * 2 ^ d.sb.toNat := Nat.mul_lt_mul_of_pos_right hv (Nat.two_pow_pos _)
    _ = 2 ^ (d.sb.toNat + d.fw.toNat) := by rw [Nat.add_comm, Nat.pow_add]
    _ ≤ 2 ^ (8 * d.rw.toNat) := Nat.pow_le_pow_right Nat.two_pos (field_inside_of_legal hl).2

/-- Inserting clears the field's old bits, so extracting gives the value back where it is in range (R123). -/
theorem extractField_insertField {d : BitField} {value : Nat} (reg : Nat) (hv : value < 2 ^ d.fw.toNat) :
    extractField d (insertField d reg value) = value := by
  apply Nat.eq_of_testBit_eq
  intro i
  rw [extractField, insertField, maskOf, Nat.testBit_shiftRight, Nat.testBit_and, Nat.testBit_or, testBit_clearBits,
    testBit_fieldMask, Nat.testBit_shiftLeft, Nat.add_sub_cancel_left]
  by_cases hi : i < d.fw.toNat
  · simp [hi]
  · have hbit : value.testBit i = false :=
      Nat.testBit_lt_two_pow (hv.trans_le (Nat.pow_le_pow_right Nat.two_pos (Nat.le_of_not_lt hi)))
    simp [hi, hbit]

/-- On one byte the two byte orders agree (R21). -/
theorem fold_eq_foldMsb {lsbf : Bool} {bs : List Byte} (h : lsbf = false ∨ bs.length = 1) : fold lsbf bs = foldMsb bs := by
  rcases h with rfl | h
  · rfl
  · obtain ⟨b, rfl⟩ := List.length_eq_one_iff.mp h
    cases lsbf <;> rfl

/-! ### BF_WRITE -/

/-- The window BF_WRITE writes back over the window it read (R122). -/
def newWindow (d : BitField) (value : Word) (window : List Byte) : Nat :=
  insertField d (fold d.lsbf window) value.toNat

theorem newWindow_lt {c : Config} {d : BitField} {value : Word} {window : List Byte} (hl : d.legal c = true)
    (hv : value.toNat < 2 ^ d.fw.toNat) (hw : window.length = d.rw.toNat) :
    newWindow d value window < 2 ^ (8 * d.rw.toNat) :=
  insertField_lt_of_legal hl (hw ▸ fold_lt d.lsbf window) hv

/-- The read half of BF_WRITE goes on where its read succeeds and the value is in range (R122). -/
theorem exec_bfWrite_bfRd_fits {s : State} {d : BitField} {value : Word} (hl : d.legal s.cfg = true)
    (hv : value.toNat < 2 ^ d.fw.toNat) (hs : s.seq = .bfRd) (hok : s.move.reply = .ok) :
    exec (.bfWrite d value) s =
      .next (((s.afterRead d.ra d.rw.toNat).setAcc (newWindow d value (s.sees d.ra d.rw.toNat))).setSeq .bfWr) := by
  have hfits := newWindow_lt hl hv (s.sees_length d.ra d.rw.toNat)
  rw [exec_bfWrite_bfRd d value hs]
  exact fieldModify_fits d _ _ hok (decide_eq_false (Nat.not_le_of_lt hfits))

/-- The write half of BF_WRITE completes where its write succeeds (R122). -/
theorem exec_bfWrite_bfWr_ok {s : State} (d : BitField) (value : Word) (hs : s.seq = .bfWr) (hok : s.move.reply = .ok) :
    exec (.bfWrite d value) s = .next ((s.afterWrite d.ra (beBytes s.acc.toNat d.rw.toNat)).respond .ok 0#32) := by
  rw [exec_bfWrite_bfWr d value hs, fieldWriteBack_ok d _ hok]

/-! ### The steps of a presented command -/

theorem decode_bfRead (d : BitField) (data : Word) :
    decode (encodeCmd (.bfRead d data)) (encodeData (.bfRead d data)) = .ok (.bfRead d data) := by
  simp [decode, encodeCmd, encodeData, unlessReserved, opcOf_formatB, zeros_formatB, bitFieldOf_formatB]

theorem decode_bfWrite (d : BitField) (value : Word) :
    decode (encodeCmd (.bfWrite d value)) (encodeData (.bfWrite d value)) = .ok (.bfWrite d value) := by
  simp [decode, encodeCmd, encodeData, unlessReserved, opcOf_formatB, zeros_formatB, bitFieldOf_formatB]

/-- The host's plan does not touch a command in progress: nothing is planned, or a command, which waits (R92). -/
def LetsRun (inputs : List HostInput) : Prop := inputs.head? ≠ some .reset ∧ inputs.head? ≠ some .pass

/-- The latches hold this command, and the host's plan does not touch it. -/
def State.Latched (s : State) (i : Instr) : Prop :=
  s.cmd = encodeCmd i ∧ s.data = encodeData i ∧ LetsRun s.inbox

/-- The acceptance of a command other than INIT: it is latched at its first step, the host's plan goes on, and the handle,
the device and the responses are kept (R92, R110). -/
def Starts (s t : State) (i : Instr) (rest : List HostInput) : Prop :=
  t.seq = firstStep i ∧ t.cmd = encodeCmd i ∧ t.data = encodeData i ∧ t.inbox = rest ∧ t.cfg = s.cfg ∧
  t.devAddr = s.devAddr ∧ t.inited = s.inited ∧ t.responses = s.responses ∧ t.mem = s.mem ∧ t.script = s.script

section
variable {s t : State} {i : Instr} {rest : List HostInput}

theorem latched_of_keeps (hk : Keeps s t) (h : s.Latched i) : t.Latched i := by
  obtain ⟨-, -, -, hcmd, hdata, hinbox, -, -⟩ := hk
  rwa [State.Latched, hcmd, hdata, hinbox]

theorem step_presented (hs : s.seq = .idle) (hin : s.inbox = presents i :: rest)
    (hd : decode (encodeCmd i) (encodeData i) = .ok i) (hl : Instr.legal s.cfg i = true) (hi : i.isInit = false)
    (hinited : s.inited = true) : ∃ t, step s = .next t ∧ Starts s t i rest := by
  have hidle : (s.setInbox rest).seq = .idle := hs
  refine ⟨((s.setInbox rest).latch i).setSeq (firstStep i), ?_, rfl, rfl, rfl, rfl, rfl, rfl, rfl, rfl, rfl, rfl⟩
  rw [step_command hs hin hd, exec_idle_starts hidle hl hi hinited]

/-- Between its acceptance and its response a command runs by itself (R92). -/
theorem step_latched (hs : s.seq ≠ .idle) (h : s.Latched i) (hd : decode (encodeCmd i) (encodeData i) = .ok i) :
    step s = exec i s := by
  obtain ⟨hcmd, hdata, hreset, hpass⟩ := h
  have hfetch : fetch s = proceed s := by
    cases hin : s.inbox with
    | nil => simp [fetch, hin]
    | cons x rest =>
      cases x with
      | reset => simp [hin] at hreset
      | pass => simp [hin] at hpass
      | command cmd data => simp [fetch, hin, hs]
  rw [step, hfetch, proceed_run hs (by rwa [hcmd, hdata])]

end

theorem runs_append {j k : Nat} {s t u : State} (hst : runs j s t) (htu : runs k t u) : runs (j + k) s u := by
  induction j generalizing s with
  | zero =>
    obtain rfl : s = t := hst
    rwa [Nat.zero_add]
  | succ j ih =>
    obtain ⟨s', hstep, hrest⟩ := hst
    rw [Nat.succ_add]
    exact ⟨s', hstep, ih hrest⟩

/-! ### The reference device (R82) -/

section
variable {s : State}

theorem move_of_quietFor {k : Nat} (h : s.quietFor (k + 1)) : s.move = .quiet := by
  have hhead := congrArg List.head? h
  rw [List.replicate_succ, List.head?_cons, List.head?_take, if_neg (Nat.succ_ne_zero k)] at hhead
  rw [State.move, List.headD_eq_head?_getD, hhead, Option.getD_some]

theorem quietFor_of_script {t : State} {k : Nat} (h : s.quietFor k) (ht : t.script = s.script) : t.quietFor k := by
  rwa [State.quietFor, ht]

theorem quietFor_of_keeps {t : State} {k : Nat} (h : s.quietFor (k + 1)) (hk : Keeps s t) : t.quietFor k := by
  obtain ⟨-, -, -, -, -, -, hscript, -⟩ := hk
  have htail := congrArg List.tail h
  rwa [List.replicate_succ, List.tail_cons, List.tail_take_eq_take_tail, Nat.add_sub_cancel, ← hscript] at htail

theorem reply_of_quiet (h : s.move = .quiet) : s.move.reply = .ok := by
  rw [h, DevMove.quiet]

theorem heldMem_of_quiet (h : s.move = .quiet) : s.heldMem = s.mem := by
  rw [State.heldMem, h, DevMove.quiet, Memory.change_nil]

theorem sees_of_quiet (h : s.move = .quiet) (ra : RegAddr) (n : Nat) :
    s.sees ra n = Memory.window s.mem s.devAddr ra n := by
  rw [State.sees, heldMem_of_quiet h]

theorem afterRead_mem_of_quiet (h : s.move = .quiet) (ra : RegAddr) (n : Nat) : (s.afterRead ra n).mem = s.mem := by
  rw [State.afterRead_mem, heldMem_of_quiet h, h, DevMove.quiet, Memory.change_nil]

theorem afterWrite_mem_of_quiet (h : s.move = .quiet) (ra : RegAddr) (bs : List Byte) :
    (s.afterWrite ra bs).mem = Memory.store s.mem s.devAddr ra bs := by
  rw [State.afterWrite_mem, heldMem_of_quiet h, h, DevMove.quiet, Memory.change_nil]

end

/-! ### The two commands against the reference device, step by step and whole -/

section
variable {s : State} {d : BitField} {rest : List HostInput}

theorem step_bfRead_quiet {data : Word} (hs : s.seq = .bfRd) (hlatch : s.Latched (.bfRead d data))
    (hmove : s.move = .quiet) :
    ∃ t, step s = .next t ∧
      Responds s t .ok (zext32 (extractField d (fold d.lsbf (Memory.window s.mem s.devAddr d.ra d.rw.toNat)))) := by
  rw [step_latched (by simp [hs]) hlatch (decode_bfRead d data), exec_bfRead_bfRd_ok d data hs (reply_of_quiet hmove),
    sees_of_quiet hmove]
  exact ⟨_, rfl, rfl, rfl⟩

theorem step_bfWrite_modifies_quiet {v : Word} (hl : d.legal s.cfg = true) (hv : v.toNat < 2 ^ d.fw.toNat)
    (hs : s.seq = .bfRd) (hlatch : s.Latched (.bfWrite d v)) (hmove : s.move = .quiet) :
    ∃ t, step s = .next t ∧ GoesOn s t .bfWr ∧ Keeps s t ∧ t.mem = s.mem ∧
      t.acc.toNat = newWindow d v (Memory.window s.mem s.devAddr d.ra d.rw.toNat) := by
  have hfits := newWindow_lt hl hv (Memory.window_length s.mem s.devAddr d.ra d.rw.toNat)
  have hacc := setAcc_toNat (s.afterRead d.ra d.rw.toNat) hfits (field_inside_of_legal hl).1
  rw [step_latched (by simp [hs]) hlatch (decode_bfWrite d v), exec_bfWrite_bfRd_fits hl hv hs (reply_of_quiet hmove),
    sees_of_quiet hmove]
  exact ⟨_, rfl, ⟨rfl, rfl⟩, keeps_afterRead s d.ra d.rw.toNat, afterRead_mem_of_quiet hmove d.ra d.rw.toNat, hacc⟩

theorem step_bfWrite_writes_quiet {v : Word} (hs : s.seq = .bfWr) (hlatch : s.Latched (.bfWrite d v))
    (hmove : s.move = .quiet) :
    ∃ t, step s = .next t ∧ Responds s t .ok 0#32 ∧ Keeps s t ∧
      t.mem = Memory.store s.mem s.devAddr d.ra (beBytes s.acc.toNat d.rw.toNat) := by
  rw [step_latched (by simp [hs]) hlatch (decode_bfWrite d v), exec_bfWrite_bfWr_ok d v hs (reply_of_quiet hmove)]
  exact ⟨_, rfl, ⟨rfl, rfl⟩, keeps_afterWrite s d.ra _, afterWrite_mem_of_quiet hmove _ _⟩

/-- BF_READ, from its presentation to its response (R121). -/
theorem runs_bfRead {data : Word} (hl : d.legal s.cfg = true) (hs : s.seq = .idle) (hinited : s.inited = true)
    (hin : s.inbox = presents (.bfRead d data) :: rest) (hrest : LetsRun rest) (hq : s.quietFor 1) :
    ∃ t, runs 2 s t ∧
      Responds s t .ok (zext32 (extractField d (fold d.lsbf (Memory.window s.mem s.devAddr d.ra d.rw.toNat)))) := by
  obtain ⟨s₁, haccept, hseq, hcmd, hdata, hinbox, -, hda, -, hresp, hmem, hscript⟩ :=
    step_presented hs hin (decode_bfRead d data) hl rfl hinited
  have hlatch : s₁.Latched (.bfRead d data) := ⟨hcmd, hdata, hinbox ▸ hrest⟩
  obtain ⟨t, hread, hresponds⟩ := step_bfRead_quiet hseq hlatch (move_of_quietFor (quietFor_of_script hq hscript))
  rw [Responds, hresp, hmem, hda] at hresponds
  exact ⟨t, ⟨s₁, haccept, t, hread, rfl⟩, hresponds⟩

/-- BF_WRITE of a value in range, from its presentation to its response: the new window is stored, most significant byte
first (R66, R122). -/
theorem runs_bfWrite {v : Word} {k : Nat} (hl : d.legal s.cfg = true) (hv : v.toNat < 2 ^ d.fw.toNat)
    (hs : s.seq = .idle) (hinited : s.inited = true) (hin : s.inbox = presents (.bfWrite d v) :: rest)
    (hrest : LetsRun rest) (hq : s.quietFor (k + 2)) :
    ∃ t, runs 3 s t ∧ Responds s t .ok 0#32 ∧
      t.mem = Memory.store s.mem s.devAddr d.ra
        (beBytes (newWindow d v (Memory.window s.mem s.devAddr d.ra d.rw.toNat)) d.rw.toNat) ∧
      t.cfg = s.cfg ∧ t.devAddr = s.devAddr ∧ t.inited = true ∧ t.inbox = rest ∧ t.quietFor k := by
  obtain ⟨s₁, haccept, hseq₁, hcmd₁, hdata₁, hinbox₁, hcfg₁, hda₁, hinited₁, hresp₁, hmem₁, hscript₁⟩ :=
    step_presented hs hin (decode_bfWrite d v) hl rfl hinited
  have hlatch : s₁.Latched (.bfWrite d v) := ⟨hcmd₁, hdata₁, hinbox₁ ▸ hrest⟩
  have hq₁ := quietFor_of_script hq hscript₁
  obtain ⟨s₂, hread, ⟨hresp₂, hseq₂⟩, hkeeps₂, hmem₂, hacc₂⟩ :=
    step_bfWrite_modifies_quiet (hcfg₁ ▸ hl) hv hseq₁ hlatch (move_of_quietFor hq₁)
  have hq₂ := quietFor_of_keeps hq₁ hkeeps₂
  obtain ⟨t, hwrite, ⟨hresp, hidle⟩, hkeeps, hmem⟩ :=
    step_bfWrite_writes_quiet hseq₂ (latched_of_keeps hkeeps₂ hlatch) (move_of_quietFor hq₂)
  have hqt := quietFor_of_keeps hq₂ hkeeps
  obtain ⟨hcfg₂, hda₂, hinited₂, -, -, hinbox₂, -, -⟩ := hkeeps₂
  obtain ⟨hcfg, hda, hinited', -, -, hinbox, -, -⟩ := hkeeps
  rw [hacc₂, hmem₂, hda₂, hmem₁, hda₁] at hmem
  rw [hresp₂, hresp₁] at hresp
  exact ⟨t, ⟨s₁, haccept, s₂, hread, t, hwrite, rfl⟩, ⟨hresp, hidle⟩, hmem, hcfg.trans (hcfg₂.trans hcfg₁),
    hda.trans (hda₂.trans hda₁), hinited'.trans (hinited₂.trans (hinited₁.trans hinited)),
    hinbox.trans (hinbox₂.trans hinbox₁), hqt⟩

end

/-! ### The round trip -/

/-- A stored window reads back as the number it was, with `lsbf` 0 or of one byte (R82, R123). -/
theorem fold_window_store_beBytes {lsbf : Bool} {w n : Nat} (m : Memory) (da : BusAddr) (ra : RegAddr)
    (horder : lsbf = false ∨ n = 1) (hn : n ≤ 4) (hw : w < 2 ^ (8 * n)) :
    fold lsbf (Memory.window (Memory.store m da ra (beBytes w n)) da ra n) = w := by
  have hlen := beBytes_length w n
  have hwindow := Memory.window_store_same m da ra (beBytes w n) (by omega)
  rw [hlen] at hwindow
  rw [hwindow, fold_eq_foldMsb (by rwa [hlen]), foldMsb_beBytes w n hw]

/-- Settles O42: the read folds the very window the write stored, and extracting gives back what was inserted (R123). -/
theorem bitFieldRoundTrip : Obligations.BitFieldRoundTrip := by
  intro d v data s hl horder hv hs hinited hin hq
  obtain ⟨t, hwrites, ⟨hresp, hidle⟩, hmem, hcfg, hda, hinited', hin', hq'⟩ :=
    runs_bfWrite hl hv hs hinited hin (by simp [LetsRun, presents]) hq
  obtain ⟨u, hreads, hresp', hidle'⟩ :=
    runs_bfRead (hcfg ▸ hl) hidle hinited' hin' (by simp [LetsRun]) hq'
  have hwidth : d.lsbf = false ∨ d.rw.toNat = 1 := horder.imp_right (congrArg BitVec.toNat)
  have hfold := fold_window_store_beBytes s.mem s.devAddr d.ra hwidth (field_inside_of_legal hl).1
    (newWindow_lt hl hv (Memory.window_length s.mem s.devAddr d.ra d.rw.toNat))
  have hback : zext32 (extractField d (fold d.lsbf (Memory.window t.mem t.devAddr d.ra d.rw.toNat))) = v := by
    rw [hmem, hda, hfold, newWindow, extractField_insertField _ hv, zext32, BitVec.ofNat_toNat, BitVec.setWidth_eq]
  refine ⟨u, runs_append hwrites hreads, hidle', ?_⟩
  rw [hresp', hresp, hback, List.append_assoc]
  rfl

end Sys2Proof.Machine
end

section
/-! PROOFS. RAW_READ (spec/41_rawregister.md): the scalar a whole register stands for as an exact number, and the step
that answers it (R141, R143). -/

namespace Sys2Proof.Machine

/-! ### The scalar of a register -/

/-- Every pattern of at most 32 bits stands for a number that the 32-bit result holds (R22, R143). -/
theorem sext32_toInt {u w : Nat} (hpos : 1 ≤ w) (hw : w ≤ 32) (hu : u < 2 ^ w) :
    (sext32 u w).toInt = signed u w := by
  have hhalf : 2 ^ (w - 1) + 2 ^ (w - 1) = 2 ^ w := Nat.two_pow_pred_add_two_pow_pred hpos
  have hmax : 2 ^ (w - 1) ≤ 2 ^ 31 := Nat.pow_le_pow_right Nat.two_pos (by omega)
  have hbounds : -2 ^ 31 ≤ signed u w ∧ signed u w < 2 ^ 31 := by
    have hcast : (2 : Int) ^ w = (2 ^ w : Nat) := (Nat.cast_pow 2 w).symm
    rw [signed, hcast]
    split <;> omega
  rw [sext32, BitVec.toInt_ofInt]
  exact Int.bmod_eq_of_le hbounds.1 hbounds.2

section
variable {d : RawRegister} {u : Nat}

/-- The unsigned scalar is the number read (R141, R143). -/
theorem scalarOf_toNat (hsgn : d.sgn = false) (hlen : d.len.toNat ≤ 4) (hu : u < 2 ^ (8 * d.len.toNat)) :
    (scalarOf d u).toNat = u := by
  have hmax : 2 ^ (8 * d.len.toNat) ≤ 2 ^ 32 := Nat.pow_le_pow_right Nat.two_pos (by omega)
  rw [scalarOf, hsgn, if_neg Bool.false_ne_true, zext32, BitVec.toNat_ofNat, Nat.mod_eq_of_lt (hu.trans_le hmax)]

/-- The signed scalar is the number's two's complement reading (R141, R143). -/
theorem scalarOf_toInt (hsgn : d.sgn = true) (hpos : 1 ≤ d.len.toNat) (hlen : d.len.toNat ≤ 4)
    (hu : u < 2 ^ (8 * d.len.toNat)) : (scalarOf d u).toInt = signed u (8 * d.len.toNat) := by
  rw [scalarOf, if_pos hsgn, sext32_toInt (by omega) (by omega) hu]

end

theorem foldMsb_pair (b0 b1 : Byte) : foldMsb [b0, b1] = 256 * b0.toNat + b1.toNat := by
  simp [foldMsb, Nat.mul_comm]

/-- The sign of two bytes is the top bit of the first (R143). -/
theorem signed_foldMsb_pair (b0 b1 : Byte) :
    signed (foldMsb [b0, b1]) 16 =
      if 0x80 ≤ b0.toNat then (256 * b0.toNat + b1.toNat : Int) - 65536 else 256 * b0.toNat + b1.toNat := by
  have hb1 := b1.isLt
  have hsign : 2 ^ (16 - 1) ≤ 256 * b0.toNat + b1.toNat ↔ 0x80 ≤ b0.toNat := by omega
  simp only [signed, foldMsb_pair, hsign]
  norm_num

/-- Settles O8: the scalar as an exact number, and for two bytes the bound and the sign of their fold (R143). -/
theorem scalarsAreTwosComplement : Obligations.ScalarsAreTwosComplement := by
  refine ⟨fun d u hpos hlen hu => ⟨(scalarOf_toNat · hlen hu), (scalarOf_toInt · hpos hlen hu)⟩, fun ra b0 b1 => ?_⟩
  have hfold : foldMsb [b0, b1] < 2 ^ 16 := foldMsb_lt [b0, b1]
  obtain ⟨hpos, hlen⟩ : 1 ≤ (2#3).toNat ∧ (2#3).toNat ≤ 4 := by decide
  constructor
  · have hnat := scalarOf_toNat (d := ⟨ra, false, 2#3⟩) rfl hlen hfold
    rw [BitVec.toInt_eq_toNat_of_lt (by omega), hnat, foldMsb_pair, Nat.cast_add, Nat.cast_mul, Nat.cast_ofNat]
  · exact (scalarOf_toInt (d := ⟨ra, true, 2#3⟩) rfl hpos hlen hfold).trans (signed_foldMsb_pair b0 b1)

/-! ### RAW_READ -/

theorem rawRegister_len_of_legal {c : Config} {d : RawRegister} (h : d.legal c = true) :
    1 ≤ d.len.toNat ∧ d.len.toNat ≤ 4 := by
  simp only [RawRegister.legal, Bool.and_eq_true, decide_eq_true_eq] at h
  omega

/-- RAW_READ where its read succeeds (R141). -/
theorem exec_rawRead_rawRd_ok {s : State} (d : RawRegister) (data : Word) (hs : s.seq = .rawRd)
    (hok : s.move.reply = .ok) :
    exec (.rawRead d data) s =
      .next (((s.afterRead d.ra d.len.toNat).setAcc (foldMsb (s.sees d.ra d.len.toNat))).respond .ok
        (scalarOf d (foldMsb (s.sees d.ra d.len.toNat)))) := by
  rw [exec_rawRead_rawRd d data hs, rawFetch_ok d _ hok]

/-- Settles O23: the step by its read's reply; a legal length keeps the fold inside `ACC` and the result (R141). -/
theorem rawReadReturnsTheScalar : Obligations.RawReadReturnsTheScalar := by
  intro d data s hs hl
  obtain ⟨hpos, hlen⟩ := rawRegister_len_of_legal hl
  have hu : foldMsb (s.sees d.ra d.len.toNat) < 2 ^ (8 * d.len.toNat) := by
    simpa using foldMsb_lt (s.sees d.ra d.len.toNat)
  have hstep : hasStep (.rawRead d data) s.seq = true := by rw [hs]; rfl
  have hwait : s.seq ≠ .iPollWait := by rw [hs]; decide
  refine ⟨fun hok => ⟨_, _, exec_rawRead_rawRd_ok d data hs hok, ⟨rfl, rfl⟩, (scalarOf_toInt · hpos hlen hu),
    (scalarOf_toNat · hlen hu), ?_⟩, endsOnFailure_of_hasStep hstep hwait⟩
  exact ⟨rfl, rfl, setAcc_toNat (s.afterRead d.ra d.len.toNat) hu hlen, keeps_afterRead s d.ra d.len.toNat,
    storesNothing_of_mem rfl⟩

end Sys2Proof.Machine
end

section
/-! PROOFS. INIT's identity check and TEMP_READ (spec/42_device.md): each reads one whole register of two bytes, and
decides or answers by the number those bytes fold to (R162, R171). -/

namespace Sys2Proof.Machine

/-- Two bytes read fit the 16 bits of a whole register (R21). -/
theorem foldMsb_sees_lt (s : State) (ra : RegAddr) : foldMsb (s.sees ra 2) < 2 ^ (8 * 2) := by
  simpa using foldMsb_lt (s.sees ra 2)

/-! ### INIT, phase 1 -/

theorem identityMatches_iff (c : Config) (id : Nat) : identityMatches c id = true ↔ id = c.idExpect.toNat :=
  decide_eq_true_iff

/-- INIT goes on to the soft reset where its read succeeds and the identity is the expected one (R162). -/
theorem exec_init_iId_matches {s : State} (addr : Word) (hs : s.seq = .iId) (hok : s.move.reply = .ok)
    (hid : foldMsb (s.sees 0x0F#8 2) = s.cfg.idExpect.toNat) :
    exec (.init addr) s = .next (((s.afterRead 0x0F#8 2).setAcc (foldMsb (s.sees 0x0F#8 2))).setSeq .iSrstRd) := by
  rw [exec_init_iId addr hs, rawFetch_ok descWhoAmI _ hok]
  exact if_pos ((identityMatches_iff s.cfg _).mpr hid)

/-- INIT ends with `DeviceNotFound` where its read succeeds and the identity is another one (R162, R201). -/
theorem exec_init_iId_differs {s : State} (addr : Word) (hs : s.seq = .iId) (hok : s.move.reply = .ok)
    (hid : foldMsb (s.sees 0x0F#8 2) ≠ s.cfg.idExpect.toNat) :
    exec (.init addr) s =
      .next (((s.afterRead 0x0F#8 2).setAcc (foldMsb (s.sees 0x0F#8 2))).raise .deviceNotFound 0#32) := by
  rw [exec_init_iId addr hs, rawFetch_ok descWhoAmI _ hok]
  exact if_neg (mt (identityMatches_iff s.cfg _).mp hid)

/-! ### TEMP_READ -/

/-- TEMP_READ where its read succeeds (R171). -/
theorem exec_tempRead_tRd_ok {s : State} (data : Word) (hs : s.seq = .tRd) (hok : s.move.reply = .ok) :
    exec (.tempRead data) s =
      .next (((s.afterRead 0x00#8 2).setAcc (foldMsb (s.sees 0x00#8 2))).respond .ok
        (scalarOf descTemp (foldMsb (s.sees 0x00#8 2)))) := by
  rw [exec_tempRead_tRd data hs, rawFetch_ok descTemp _ hok]
  rfl

/-- The temperature register's scalar is the two's complement reading of its 16 bits (R47, R171). -/
theorem scalarOf_descTemp_toInt {u : Nat} (hu : u < 2 ^ (8 * 2)) :
    (scalarOf descTemp u).toInt = if 0x8000 ≤ u then (u : Int) - 0x10000 else u :=
  scalarOf_toInt (d := descTemp) rfl (by decide) (by decide) hu

/-- Settles O25: the step by its read's reply, and after a successful read by whether the fold is the expected identity;
`ACC` holds the whole 16-bit value either way (R162). -/
theorem initChecksTheIdentity : Obligations.InitChecksTheIdentity := by
  intro addr s hs
  have hstep : hasStep (.init addr) s.seq = true := by rw [hs]; rfl
  have hwait : s.seq ≠ .iPollWait := by rw [hs]; decide
  refine ⟨fun hok => ?_, endsOnFailure_of_hasStep hstep hwait⟩
  have hacc := setAcc_toNat (s.afterRead 0x0F#8 2) (foldMsb_sees_lt s 0x0F#8) (by decide)
  have hkeeps := keeps_afterRead s 0x0F#8 2
  by_cases hid : foldMsb (s.sees 0x0F#8 2) = s.cfg.idExpect.toNat
  · exact ⟨_, exec_init_iId_matches addr hs hok hid, rfl, rfl, hkeeps, storesNothing_of_mem rfl, hacc,
      fun _ => ⟨rfl, rfl⟩, fun hne => absurd hid hne⟩
  · exact ⟨_, exec_init_iId_differs addr hs hok hid, rfl, rfl, hkeeps, storesNothing_of_mem rfl, hacc,
      fun heq => absurd heq hid, fun _ => ⟨rfl, rfl⟩⟩

/-- Settles O30: the step by its read's reply; the result is the two's complement reading of the two bytes (R171). -/
theorem tempReadReturnsTheRawTemperature : Obligations.TempReadReturnsTheRawTemperature := by
  intro data s hs
  have hstep : hasStep (.tempRead data) s.seq = true := by rw [hs]; rfl
  have hwait : s.seq ≠ .iPollWait := by rw [hs]; decide
  have hu := foldMsb_sees_lt s 0x00#8
  refine ⟨fun hok => ⟨_, _, exec_tempRead_tRd_ok data hs hok, ⟨rfl, rfl⟩, scalarOf_descTemp_toInt hu, ?_⟩,
    endsOnFailure_of_hasStep hstep hwait⟩
  exact ⟨rfl, rfl, setAcc_toNat (s.afterRead 0x00#8 2) hu (by decide), keeps_afterRead s 0x00#8 2,
    storesNothing_of_mem rfl⟩

end Sys2Proof.Machine
end

section
/-! PROOFS. A command refused at decode (spec/60_exceptions.md R204, R205, R209): the refusals of `exec` in `IDLE`, as the
change of the state that R210 allows them. -/

namespace Sys2Proof.Machine

theorem isInit_eq_false_of_ne_init {i : Instr} (h : ∀ addr, i ≠ .init addr) : i.isInit = false := by
  refine eq_false_of_ne_true fun hi => ?_
  obtain ⟨addr, rfl⟩ := (isInit_iff i).mp hi
  exact h addr rfl

/-- Settles O18: each refusal is a `raise` by the acceptance rules, and a `raise` in `IDLE` adds its response only. -/
theorem refusalsChangeNothing : Obligations.RefusalsChangeNothing := by
  intro i s hs
  refine ⟨fun hl => ?_, fun hl hne hinited => ?_⟩
  · rw [exec_idle_illegal hs hl, raise_of_idle hs]
  · rw [exec_idle_notReady hs hl (isInit_eq_false_of_ne_init hne) hinited, raise_of_idle hs]

end Sys2Proof.Machine
end

section
/-! PROOFS. The decoder and the encoder as inverses, the match-and-mask table of R112 as the test of the opcode and of
the reserved bits, and the assembler's words (spec/30_encoding.md R93 to R97, R104, R107 to R109, R112). -/

namespace Sys2Proof.Machine

open Sys2Proof.Laws.RowMatch (opcode zeros)

/-! ### Decode and encode -/

/-- Every command decodes from its own words: the opcode selects its row, the reserved bits are 0, and no bit of a field
is dropped (R109). -/
theorem decode_encode (i : Instr) : decode (encodeCmd i) (encodeData i) = .ok i := by
  cases i with
  | bfRead d data => exact decode_bfRead d data
  | bfWrite d value => exact decode_bfWrite d value
  | rawRead d data =>
    simp [decode, encodeCmd, encodeData, unlessReserved, opcOf_formatR, zeros_formatR, rawRegisterOf_formatR]
  | rawWrite d value =>
    simp [decode, encodeCmd, encodeData, unlessReserved, opcOf_formatR, zeros_formatR, rawRegisterOf_formatR]
  | init addr => simp [decode, encodeCmd, encodeData, unlessReserved, opcOf_formatD, zeros_formatD]
  | tempRead data => simp [decode, encodeCmd, encodeData, unlessReserved, opcOf_formatD, zeros_formatD]
  | alertStatus data => simp [decode, encodeCmd, encodeData, unlessReserved, opcOf_formatD, zeros_formatD]

/-- Settles O1: one law of the decoder for each of the three formats. -/
theorem decodeOfEncodeIsTheCommand : Obligations.DecodeOfEncodeIsTheCommand := decode_encode

/-- Settles O2: a word whose reserved bits are 0 is the sum of the fields its command carries. -/
theorem encodeOfDecodeIsThePair : Obligations.EncodeOfDecodeIsThePair := by
  intro cmd data i h
  obtain ⟨hcmd, hdata⟩ := encode_of_decode_ok h
  rw [encode, hcmd, hdata]

/-- Settles O4: each word is its command's, so it decodes to it (R109). -/
theorem sampleWordsDecode : Obligations.SampleWordsDecode := by
  have words (cmd : Word) (i : Instr) (h : encodeCmd i = cmd) : decode cmd (encodeData i) = .ok i := h ▸ decode_encode i
  exact ⟨words _ (.bfRead _ _) (by decide), words _ (.bfWrite _ _) (by decide), words _ (.rawRead _ _) (by decide),
    words _ (.rawWrite _ _) (by decide), words _ (.init _) (by decide), words _ (.tempRead _) (by decide)⟩

/-! ### The match-and-mask table -/

/-- A command's row of R112: the opcode's four bits and the reserved bits are the ones that count. -/
def rowOf (i : Instr) : OpcodeRow :=
  ⟨BitVec.ofNat 32 (2 ^ 28 * opcode i), BitVec.ofNat 32 (2 ^ 28 * 15 + (2 ^ zeros i - 1))⟩

theorem mem_opcodeRows_iff (r : OpcodeRow) : r ∈ opcodeRows ↔ ∃ i, r = rowOf i := by
  constructor
  · intro h
    simp only [opcodeRows, List.mem_cons, List.not_mem_nil, or_false] at h
    rcases h with rfl | rfl | rfl | rfl | rfl | rfl | rfl
    · exact ⟨.bfRead ⟨0, 0, 0, 0, false⟩ 0, by decide⟩
    · exact ⟨.bfWrite ⟨0, 0, 0, 0, false⟩ 0, by decide⟩
    · exact ⟨.rawRead ⟨0, false, 0⟩ 0, by decide⟩
    · exact ⟨.rawWrite ⟨0, false, 0⟩ 0, by decide⟩
    · exact ⟨.init 0, by decide⟩
    · exact ⟨.tempRead 0, by decide⟩
    · exact ⟨.alertStatus 0, by decide⟩
  · rintro ⟨i, rfl⟩
    cases i <;> simp only [rowOf, opcode, zeros] <;> decide

/-- The bits of a word that a mask of the top four and the low `n` bits leaves. -/
theorem and_rowMask {w n : Nat} (hw : w < 2 ^ 32) (hn : n ≤ 28) :
    w &&& (2 ^ 28 * 15 + (2 ^ n - 1)) = 2 ^ 28 * (w / 2 ^ 28) + w % 2 ^ n := by
  have hpow : 2 ^ n ≤ 2 ^ 28 := Nat.pow_le_pow_right Nat.two_pos hn
  have hpos := Nat.two_pow_pos n
  have hlow : w % 2 ^ n < 2 ^ 28 := (Nat.mod_lt w hpos).trans_le hpow
  apply Nat.eq_of_testBit_eq
  intro j
  rw [Nat.testBit_and, Nat.testBit_two_pow_mul_add _ (by omega), Nat.testBit_two_pow_mul_add _ hlow]
  split
  · rw [Nat.testBit_two_pow_sub_one, Nat.testBit_mod_two_pow, Bool.and_comm]
  · have hj : j = 28 + (j - 28) := by omega
    have hfour : w / 2 ^ 28 = w / 2 ^ 28 % 2 ^ 4 := by omega
    rw [hfour, Nat.testBit_mod_two_pow, show (15 : Nat) = 2 ^ 4 - 1 from rfl, Nat.testBit_two_pow_sub_one,
      Nat.testBit_div_two_pow, Nat.add_comm _ 28, ← hj, Bool.and_comm]

/-- A word selects a command's row exactly where it has that row's opcode and its reserved bits are 0 (R96, R104). -/
theorem rowOf_selects_iff (i : Instr) (w : Word) :
    (rowOf i).selects w = true ↔ w.toNat / 2 ^ 28 = opcode i ∧ w.toNat % 2 ^ zeros i = 0 := by
  have hopc : opcode i < 16 := by cases i <;> simp [opcode]
  have hzeros : zeros i ≤ 28 := by cases i <;> simp [zeros]
  have hpow : 2 ^ zeros i ≤ 2 ^ 28 := Nat.pow_le_pow_right Nat.two_pos hzeros
  have hlow : w.toNat % 2 ^ zeros i < 2 ^ 28 := (Nat.mod_lt _ (Nat.two_pow_pos _)).trans_le hpow
  have hmask : 2 ^ 28 * 15 + (2 ^ zeros i - 1) < 2 ^ 32 := by omega
  rw [OpcodeRow.selects, beq_iff_eq, ← BitVec.toNat_inj, BitVec.toNat_and, rowOf, BitVec.toNat_ofNat,
    BitVec.toNat_ofNat, Nat.mod_eq_of_lt hmask, and_rowMask w.isLt hzeros]
  omega

/-- The words of a command select its row (R112). -/
theorem rowOf_selects_encodeCmd (i : Instr) : (rowOf i).selects (encodeCmd i) = true := by
  rw [rowOf_selects_iff]
  cases i with
  | bfRead d data => exact Laws.RowMatch.bfRead d data
  | bfWrite d value => exact Laws.RowMatch.bfWrite d value
  | rawRead d data => exact Laws.RowMatch.rawRead d data
  | rawWrite d value => exact Laws.RowMatch.rawWrite d value
  | init addr => exact Laws.RowMatch.init addr
  | tempRead data => exact Laws.RowMatch.tempRead data
  | alertStatus data => exact Laws.RowMatch.alertStatus data

/-- The opcode fixes the format, and so how many bits are reserved (R93 to R96). -/
theorem zeros_eq_of_opcode_eq {i j : Instr} (h : opcode i = opcode j) : zeros i = zeros j := by
  have hformat (i : Instr) : zeros i = if opcode i ≤ 2 then 5 else if opcode i ≤ 4 then 16 else 28 := by cases i <;> rfl
  rw [hformat, hformat, h]

/-- A word that selects some row decodes: its opcode is a command's, whose reserved bits are 0. -/
theorem decode_ok_of_selects {cmd : Word} (data : Word) {i : Instr} (h : (rowOf i).selects cmd = true) :
    ∃ j, decode cmd data = .ok j := by
  obtain ⟨hopc, hz⟩ := (rowOf_selects_iff i cmd).mp h
  rcases decode_cases cmd data with ⟨j, hj, hd, -, -⟩ | ⟨hno, -⟩
  · rw [zeros_eq_of_opcode_eq (hopc.symm.trans hj)] at hz
    exact ⟨j, by rw [hd, unlessReserved, if_pos ((zerosBelow_iff cmd _).mpr hz)]⟩
  · have : 1 ≤ opcode i ∧ opcode i ≤ 7 := by cases i <;> simp [opcode]
    exact absurd (hopc ▸ this) hno

/-- Settles O3: a decoded word is its command's and selects that row; the opcode tells two rows apart (R112). -/
theorem wordsSelectOneRow : Obligations.WordsSelectOneRow := by
  refine ⟨fun cmd data => ⟨?_, ?_⟩, ?_⟩
  · rintro ⟨i, hd⟩
    obtain ⟨rfl, -⟩ := encode_of_decode_ok hd
    exact ⟨rowOf i, (mem_opcodeRows_iff _).mpr ⟨i, rfl⟩, rowOf_selects_encodeCmd i⟩
  · rintro ⟨r, hr, hsel⟩
    obtain ⟨i, rfl⟩ := (mem_opcodeRows_iff r).mp hr
    exact decode_ok_of_selects data hsel
  · intro cmd r r' hr hr' hsel hsel'
    obtain ⟨i, rfl⟩ := (mem_opcodeRows_iff r).mp hr
    obtain ⟨j, rfl⟩ := (mem_opcodeRows_iff r').mp hr'
    have hopc := ((rowOf_selects_iff i cmd).mp hsel).1.symm.trans ((rowOf_selects_iff j cmd).mp hsel').1
    rw [rowOf, rowOf, hopc, zeros_eq_of_opcode_eq hopc]

/-! ### The assembler -/

/-- The assembler's format B word is the encoder's: the shifted operands share no bits (R93, R107). -/
theorem wordB_fields (opc : BitVec 4) (d : BitField) :
    wordB opc.toNat d.ra.toNat d.rw.toNat d.sb.toNat d.fw.toNat d.lsbf = some (formatB opc d) := by
  have hl := Bool.toNat_le d.lsbf
  have hrw := d.rw.isLt
  have hra := d.ra.isLt
  have hfw := d.fw.isLt
  have hsb := d.sb.isLt
  rw [wordB, if_pos ⟨hra, hrw, hsb, hfw⟩, formatB]
  simp only [Nat.or_assoc]
  rw [← Nat.shiftLeft_add_eq_or_of_lt (i := 10), ← Nat.shiftLeft_add_eq_or_of_lt (i := 16),
    ← Nat.shiftLeft_add_eq_or_of_lt (i := 24), ← Nat.shiftLeft_add_eq_or_of_lt (i := 27),
    ← Nat.shiftLeft_add_eq_or_of_lt (i := 28)]
  all_goals simp only [Nat.shiftLeft_eq, Nat.add_assoc]
  all_goals omega

/-- The assembler's format R word is the encoder's (R94, R107). -/
theorem wordR_fields (opc : BitVec 4) (d : RawRegister) :
    wordR opc.toNat d.ra.toNat d.len.toNat d.sgn = some (formatR opc d) := by
  have hs := Bool.toNat_le d.sgn
  have hlen := d.len.isLt
  have hra := d.ra.isLt
  rw [wordR, if_pos ⟨hra, hlen⟩, formatR]
  simp only [Nat.or_assoc]
  rw [← Nat.shiftLeft_add_eq_or_of_lt (i := 24), ← Nat.shiftLeft_add_eq_or_of_lt (i := 27),
    ← Nat.shiftLeft_add_eq_or_of_lt (i := 28)]
  all_goals simp only [Nat.shiftLeft_eq, Nat.add_assoc]
  all_goals omega

@[simp] theorem operandWord_toNat (v : Word) : operandWord v.toNat = some v := by
  rw [operandWord, if_pos v.isLt, BitVec.ofNat_toNat, BitVec.setWidth_eq]

section
variable (c : Config) (d : BitField) (r : RawRegister) (v : Word)

theorem assemble_bfRead :
    assemble c (.bfRead d.ra.toNat d.rw.toNat d.sb.toNat d.fw.toNat d.lsbf) = some (encode (.bfRead d 0#32)) :=
  congrArg (bothWords · _) (wordB_fields 0x1#4 d)

theorem assemble_bfWrite :
    assemble c (.bfWrite d.ra.toNat d.rw.toNat d.sb.toNat d.fw.toNat d.lsbf v.toNat) = some (encode (.bfWrite d v)) :=
  congrArg₂ bothWords (wordB_fields 0x2#4 d) (operandWord_toNat v)

theorem assemble_rawRead :
    assemble c (.rawRead r.ra.toNat r.len.toNat r.sgn) = some (encode (.rawRead r 0#32)) :=
  congrArg (bothWords · _) (wordR_fields 0x3#4 r)

theorem assemble_rawWrite :
    assemble c (.rawWrite r.ra.toNat r.len.toNat r.sgn v.toNat) = some (encode (.rawWrite r v)) :=
  congrArg₂ bothWords (wordR_fields 0x4#4 r) (operandWord_toNat v)

theorem assemble_init : assemble c (.init v.toNat) = some (encode (.init v)) :=
  congrArg (bothWords _) (operandWord_toNat v)

end

/-- Settles O5: the words of each format, and the operand, as numbers that fit (R107). -/
theorem assemblerGivesTheEncodedWords : Obligations.AssemblerGivesTheEncodedWords := fun c d r v =>
  ⟨assemble_bfRead c d, assemble_bfWrite c d v, assemble_rawRead c r, assemble_rawWrite c r v, assemble_init c v, rfl,
    rfl⟩

/-- Settles O6: each pseudo-instruction is the line of a descriptor constant, whose word is evaluated (R43 to R48,
R108). -/
theorem pseudoInstructionWords : Obligations.PseudoInstructionWords := by
  have read (d : BitField) (w : Word) (h : encode (.bfRead d 0#32) = (w, 0#32)) :=
    (assemble_bfRead Config.baseline d).trans (congrArg some h)
  have write (d : BitField) (v w : Word) (h : encodeCmd (.bfWrite d v) = w) :=
    (assemble_bfWrite Config.baseline d v).trans (congrArg (fun cmd => some (cmd, v)) h)
  have raw (r : RawRegister) (w : Word) (h : encode (.rawRead r 0#32) = (w, 0#32)) :=
    (assemble_rawRead Config.baseline r).trans (congrArg some h)
  exact ⟨read (descDrdy .baseline) _ (by decide), read (descMode .baseline) _ (by decide),
    fun m => write (descMode .baseline) m _ rfl, read (descSrst .baseline) _ (by decide),
    write (descSrst .baseline) 1#32 _ (by decide), raw descWhoAmI _ (by decide), raw descTemp _ (by decide),
    assemble_init .baseline 0x48#32⟩

end Sys2Proof.Machine
end

section
/-! PROOFS. The fixed-point temperature (R14, R172), a value too wide for its field (R122, R126), and the status codes
(R99). -/

namespace Sys2Proof.Machine

/-! ### The temperature a result stands for -/

section
variable (w : Word)

theorem temperatureFloor_eq : temperatureFloor w = w.toInt / 128 := by
  have := w.isLt
  rw [temperatureFloor, BitVec.toInt_eq_toNat_cond, BitVec.toInt_eq_toNat_cond, extractLsb'_eq_div_mod]
  split <;> split <;> omega

theorem temperatureFraction_eq : (temperatureFraction w : Int) = w.toInt % 128 := by
  have := w.isLt
  rw [temperatureFraction, BitVec.toInt_eq_toNat_cond, extractLsb'_eq_div_mod]
  split <;> omega

theorem floor_temperature : ⌊temperature w⌋ = temperatureFloor w := by
  rw [temperatureFloor_eq, temperature]
  exact Rat.floor_intCast_div_natCast w.toInt 128

/-- A result is its whole degrees and its fraction (R172). -/
theorem temperature_eq_floor_add_fraction :
    temperature w = (temperatureFloor w : Rat) + (temperatureFraction w : Rat) / 128 := by
  have hfraction : (temperatureFraction w : Rat) = ((w.toInt % 128 : Int) : Rat) := by
    rw [← temperatureFraction_eq, Int.cast_natCast]
  have hsum : (w.toInt : Rat) = 128 * ((w.toInt / 128 : Int) : Rat) + ((w.toInt % 128 : Int) : Rat) := by
    exact_mod_cast (Int.mul_ediv_add_emod w.toInt 128).symm
  rw [temperatureFloor_eq, hfraction, temperature, hsum]
  ring

end

/-- Settles O9: the result is the signed 16-bit value, whose quotient and remainder by 128 are the two parts (R172). -/
theorem temperatureIsFixedPoint : Obligations.TemperatureIsFixedPoint := by
  intro b0 b1 result
  have hu : foldMsb [b0, b1] < 2 ^ (8 * 2) := foldMsb_lt [b0, b1]
  have hraw : result.toInt = signed (foldMsb [b0, b1]) 16 :=
    scalarOf_toInt (d := descTemp) rfl (by decide) (by decide) hu
  have hbounds : -32768 ≤ result.toInt ∧ result.toInt ≤ 32767 := by
    rw [hraw, signed]
    split <;> omega
  have hlow : (-32768 : Rat) ≤ result.toInt := by exact_mod_cast hbounds.1
  have hhigh : (result.toInt : Rat) ≤ 32767 := by exact_mod_cast hbounds.2
  refine ⟨?_, ?_, ?_, floor_temperature result, temperature_eq_floor_add_fraction result⟩
  · rw [temperature, hraw]
    ring
  · rw [temperature]
    linarith
  · rw [temperature]
    linarith

/-! ### A value too wide for its field -/

theorem testBit_insertField (d : BitField) (reg value k : Nat) : (insertField d reg value).testBit k =
    ((reg.testBit k && !(decide (d.sb.toNat ≤ k) && decide (k < d.sb.toNat + d.fw.toNat))) ||
      (decide (d.sb.toNat ≤ k) && value.testBit (k - d.sb.toNat))) := by
  rw [insertField, Nat.testBit_or, testBit_clearBits, maskOf, testBit_fieldMask, Nat.testBit_shiftLeft]
  by_cases hk : d.sb.toNat ≤ k
  · have hwidth : k - d.sb.toNat < d.fw.toNat ↔ k < d.sb.toNat + d.fw.toNat := by omega
    simp only [hwidth, ge_iff_le]
  · simp [hk]

/-- A value leaves a window of `n` bits from its place `sb` exactly where it has a bit at `n - sb` or above. -/
theorem shiftLeft_lt_two_pow_iff {value sb n : Nat} (hsb : sb ≤ n) : value <<< sb < 2 ^ n ↔ value < 2 ^ (n - sb) := by
  have hn : 2 ^ n = 2 ^ (n - sb) * 2 ^ sb := by rw [← Nat.pow_add, Nat.sub_add_cancel hsb]
  rw [Nat.shiftLeft_eq, hn]
  exact Nat.mul_lt_mul_right (Nat.two_pow_pos sb)

/-- A window that fits, with a value inserted, fits exactly where the value does (R122). -/
theorem insertField_lt_iff {d : BitField} {reg value n : Nat} (hr : reg < 2 ^ n) :
    insertField d reg value < 2 ^ n ↔ value <<< d.sb.toNat < 2 ^ n :=
  ⟨Nat.right_le_or.trans_lt, insertField_lt hr⟩

/-- Settles O10: bit by bit, and the overflow test by the bits of the value alone (R122, R126). -/
theorem wideValuesSetNeighbours : Obligations.WideValuesSetNeighbours := by
  refine ⟨testBit_insertField, fun d reg value hsb hr => ?_⟩
  rw [fieldOverflows, decide_eq_true_iff, ← not_lt, insertField_lt_iff hr, shiftLeft_lt_two_pow_iff (by omega), not_lt]

/-! ### The status codes -/

/-- Settles O11: one code a status (R99). -/
theorem statusCodes : Obligations.StatusCodes := by
  refine ⟨rfl, rfl, rfl, rfl, rfl, rfl, fun st => ?_⟩
  cases st <;> decide

end Sys2Proof.Machine
end

section
/-! PROOFS. A step of the machine by what `fetch` finds (R92, R230, R231), the block's reset from any state, and the
acceptances of `exec` in `IDLE` (R110, R161). -/

namespace Sys2Proof.Machine

/-- Settles O14: the reset is taken before anything else, and `blockReset` leaves the agents at the ports alone
(R230). -/
theorem blockResetFromAnyState : Obligations.BlockResetFromAnyState := by
  intro s rest hin
  exact ⟨_, step_reset hin, rfl, rfl, rfl, rfl, rfl, rfl, rfl, rfl, rfl, rfl⟩

/-- What the host still plans after a step that takes no command: a pass is used up, and a presented command waits
(R92). -/
def State.waitingInputs (s : State) : List HostInput :=
  if s.inbox.head? = some .pass then s.inbox.tail else s.inbox

section
variable {s : State}

/-- With no command in progress and none presented the block waits (R231). -/
theorem step_waits (hs : s.seq = .idle) (hreset : s.inbox.head? ≠ some .reset)
    (hcommand : ∀ cmd data, s.inbox.head? ≠ some (.command cmd data)) :
    step s = .next (s.setInbox s.waitingInputs) := by
  rcases fetch_cases s with ⟨rest, hin, -⟩ | ⟨cmd, data, rest, -, hin, -⟩ | ⟨-, rest, rfl, ⟨-, hf⟩ | ⟨hne, -⟩⟩
  · exact absurd (congrArg List.head? hin) hreset
  · exact absurd (congrArg List.head? hin) (hcommand cmd data)
  · rw [step, hf, State.waitingInputs]
  · exact absurd hs hne

/-- While a command is in progress, the step is that command's (R36, R92). -/
theorem step_running {i : Instr} (hs : s.seq ≠ .idle) (hreset : s.inbox.head? ≠ some .reset)
    (hd : decode s.cmd s.data = .ok i) : step s = exec i (s.setInbox s.waitingInputs) := by
  rcases fetch_cases s with ⟨rest, hin, -⟩ | ⟨_, _, _, hidle, -⟩ |
    ⟨-, rest, rfl, ⟨hidle, -⟩ | ⟨-, ⟨j, hj, hf⟩ | ⟨e, he, -⟩⟩⟩
  · exact absurd (congrArg List.head? hin) hreset
  · exact absurd hidle hs
  · exact absurd hidle hs
  · obtain rfl : i = j := Except.ok.inj (hd.symm.trans hj)
    rw [step, hf, State.waitingInputs]
  · rw [hd] at he
    cases he

end

/-- Settles O15: the two rules of a step that runs a command, in `IDLE` and in progress. -/
theorem stepRunsTheDecodedCommand : Obligations.StepRunsTheDecodedCommand :=
  ⟨fun _ _ _ _ _ hs hin hd => step_command hs hin hd, fun _ _ hs hreset hd => step_running hs hreset hd⟩

/-- Settles O19: the acceptance latches the command's words, and their opcode tells the first step (R92, R110). -/
theorem acceptedCommandsStart : Obligations.AcceptedCommandsStart := by
  intro i s hs hne hinited hl
  rw [exec_idle_starts hs hl (isInit_eq_false_of_ne_init hne) hinited, encode, encodeCmd_opcode, firstStepOf_opcode]
  rfl

/-- INIT's operand is the whole of the address it opens (R102, R161). -/
theorem setWidth_toNat_of_lt {addr : Word} (h : addr.toNat < 2 ^ 7) : (addr.setWidth 7).toNat = addr.toNat := by
  rw [BitVec.toNat_setWidth, Nat.mod_eq_of_lt h]

theorem init_legal (c : Config) {addr : Word} (h : addr.toNat < 2 ^ 7) : Instr.legal c (.init addr) = true :=
  decide_eq_true h

/-- Settles O20: an operand that passes its range check is INIT's only condition (R161, R176). -/
theorem initAcceptanceOpensTheHandle : Obligations.InitAcceptanceOpensTheHandle := by
  intro addr s hs haddr
  have hword : encodeCmd (.init addr) = 0x50000000#32 := by
    rw [encodeCmd]
    decide
  refine ⟨_, exec_init_idle_starts hs (init_legal s.cfg haddr), ?_⟩
  simp [hword, setWidth_toNat_of_lt haddr, encodeData]

end Sys2Proof.Machine
end

section
/-! PROOFS. The steps of BF_WRITE, RAW_WRITE, INIT and ALERT_STATUS by their transaction's reply (spec/40_bitfield.md,
spec/41_rawregister.md, spec/42_device.md), and what a failed or a pending transaction does at any step (R202, R248). -/

namespace Sys2Proof.Machine

/-! ### The state after a transaction that succeeded, field by field -/

section
variable (s : State) (ra : RegAddr) (n : Nat) (bs : List Byte)

@[simp] theorem State.afterRead_cfg : (s.afterRead ra n).cfg = s.cfg := rfl
@[simp] theorem State.afterRead_devAddr : (s.afterRead ra n).devAddr = s.devAddr := rfl
@[simp] theorem State.afterRead_inited : (s.afterRead ra n).inited = s.inited := rfl
@[simp] theorem State.afterRead_seq : (s.afterRead ra n).seq = s.seq := rfl
@[simp] theorem State.afterRead_cmd : (s.afterRead ra n).cmd = s.cmd := rfl
@[simp] theorem State.afterRead_data : (s.afterRead ra n).data = s.data := rfl
@[simp] theorem State.afterRead_acc : (s.afterRead ra n).acc = s.acc := rfl
@[simp] theorem State.afterRead_inbox : (s.afterRead ra n).inbox = s.inbox := rfl
@[simp] theorem State.afterRead_responses : (s.afterRead ra n).responses = s.responses := rfl
@[simp] theorem State.afterRead_buf : (s.afterRead ra n).buf = s.sees ra n ++ s.buf.drop (s.sees ra n).length := rfl
@[simp] theorem State.afterRead_script : (s.afterRead ra n).script = s.script.tail := rfl
@[simp] theorem State.afterRead_freeIdx : (s.afterRead ra n).freeIdx = s.freeIdx + 1 := rfl
@[simp] theorem State.afterRead_trace :
    (s.afterRead ra n).trace = s.trace ++ [.read s.devAddr ra n (s.sees ra n)] := rfl

@[simp] theorem State.afterWrite_cfg : (s.afterWrite ra bs).cfg = s.cfg := rfl
@[simp] theorem State.afterWrite_devAddr : (s.afterWrite ra bs).devAddr = s.devAddr := rfl
@[simp] theorem State.afterWrite_inited : (s.afterWrite ra bs).inited = s.inited := rfl
@[simp] theorem State.afterWrite_seq : (s.afterWrite ra bs).seq = s.seq := rfl
@[simp] theorem State.afterWrite_cmd : (s.afterWrite ra bs).cmd = s.cmd := rfl
@[simp] theorem State.afterWrite_data : (s.afterWrite ra bs).data = s.data := rfl
@[simp] theorem State.afterWrite_acc : (s.afterWrite ra bs).acc = s.acc := rfl
@[simp] theorem State.afterWrite_inbox : (s.afterWrite ra bs).inbox = s.inbox := rfl
@[simp] theorem State.afterWrite_responses : (s.afterWrite ra bs).responses = s.responses := rfl
@[simp] theorem State.afterWrite_buf : (s.afterWrite ra bs).buf = bs ++ s.buf.drop bs.length := rfl
@[simp] theorem State.afterWrite_script : (s.afterWrite ra bs).script = s.script.tail := rfl
@[simp] theorem State.afterWrite_freeIdx : (s.afterWrite ra bs).freeIdx = s.freeIdx + 1 := rfl
@[simp] theorem State.afterWrite_trace : (s.afterWrite ra bs).trace = s.trace ++ [.write s.devAddr ra bs] := rfl

theorem goesOn_afterRead (v : Nat) (q : Seq) : GoesOn s (((s.afterRead ra n).setAcc v).setSeq q) q := by
  simp [GoesOn]

theorem responds_afterRead (v : Nat) (st : Status) (r : Word) :
    Responds s (((s.afterRead ra n).setAcc v).respond st r) st r := by
  simp [Responds]

theorem responds_afterWrite (st : Status) (r : Word) : Responds s ((s.afterWrite ra bs).respond st r) st r := by
  simp [Responds]

theorem goesOn_afterWrite (q : Seq) : GoesOn s ((s.afterWrite ra bs).setSeq q) q := by
  simp [GoesOn]

end

/-! ### A write: what it stores -/

/-- Where a store lies between the device's own changes, the step stored those bytes and nothing else (R82). -/
theorem storesBytes_of_mem {s t : State} {ra : RegAddr} {bs : List Byte} (hlen : bs.length ≤ 8)
    (h : t.mem = Memory.change (Memory.store s.heldMem s.devAddr ra bs) s.move.after) : StoresBytes s t ra bs := by
  have houtside (a : Nat) (ha : a < regKey s.devAddr ra 0 ∨ regKey s.devAddr ra bs.length ≤ a) :
      Memory.holds t.mem a = Memory.holds (Memory.change (Memory.change s.mem s.move.before) s.move.after) a := by
    rw [h]
    exact Memory.holds_change_congr _ a (Memory.holds_store_outside _ _ _ _ a ha)
  refine ⟨fun a ha => ⟨houtside a ha, fun hbefore hafter => ?_⟩, fun hafter => ?_⟩
  · rw [houtside a ha, hbefore, hafter, Memory.change_nil, Memory.change_nil]
  · rw [h, hafter, Memory.change_nil, Memory.window_store_same _ _ _ _ hlen]

theorem beBytes_length_le_eight (v : Nat) (n : BitVec 3) : (beBytes v n.toNat).length ≤ 8 := by
  have := n.isLt
  rw [beBytes_length]
  omega

/-- A failed transaction ends the command at a step that is known. -/
theorem endsOnFailure_at {i : Instr} {s : State} {q : Seq} (hs : s.seq = q) (hstep : hasStep i q = true)
    (hwait : q ≠ .iPollWait) : EndsOnFailure i s :=
  endsOnFailure_of_hasStep (hs ▸ hstep) (hs ▸ hwait)

/-! ### The two halves of a read-modify-write -/

theorem fieldOverflows_eq_false_iff (d : BitField) (reg : Nat) :
    fieldOverflows d reg = false ↔ reg < 2 ^ (8 * d.rw.toNat) := by
  rw [fieldOverflows, decide_eq_false_iff_not, not_le]

section
variable {s : State} {d : BitField} {value : Nat} {q : Seq}

/-- The read half, where its read succeeds and the new window fits: `ACC` holds the new window (R122). -/
theorem fieldModify_goesOn (hrw : d.rw.toNat ≤ 4) (hok : s.move.reply = .ok)
    (hfits : insertField d (fold d.lsbf (s.sees d.ra d.rw.toNat)) value < 2 ^ (8 * d.rw.toNat)) :
    ∃ t, fieldModify d value q s = .next t ∧ GoesOn s t q ∧
      t.acc.toNat = insertField d (fold d.lsbf (s.sees d.ra d.rw.toNat)) value ∧
      Logs s t (.read s.devAddr d.ra d.rw.toNat (s.sees d.ra d.rw.toNat)) ∧ Buffers s t (s.sees d.ra d.rw.toNat) ∧
      Keeps s t ∧ StoresNothing s t :=
  ⟨_, fieldModify_fits d value q hok ((fieldOverflows_eq_false_iff d _).mpr hfits), goesOn_afterRead s _ _ _ _,
    setAcc_toNat (s.afterRead d.ra d.rw.toNat) hfits hrw, rfl, rfl, keeps_afterRead s d.ra d.rw.toNat,
    storesNothing_of_mem rfl⟩

/-- The write half, where its write succeeds and the command goes on (R163, R164). -/
theorem fieldWriteBack_goesOn (hok : s.move.reply = .ok) :
    ∃ t, (fieldWriteBack d s fun t => .next (t.setSeq q)) = .next t ∧ GoesOn s t q ∧
      Logs s t (.write s.devAddr d.ra (beBytes s.acc.toNat d.rw.toNat)) ∧
      Buffers s t (beBytes s.acc.toNat d.rw.toNat) ∧ t.acc = s.acc ∧ Keeps s t ∧
      StoresBytes s t d.ra (beBytes s.acc.toNat d.rw.toNat) :=
  ⟨_, fieldWriteBack_ok d _ hok, goesOn_afterWrite s _ _ _, rfl, rfl, rfl, keeps_afterWrite s d.ra _,
    storesBytes_of_mem (beBytes_length_le_eight _ _) rfl⟩

end

/-! ### BF_WRITE -/

/-- Settles O22: the read half by whether the new window fits, the write half by the store it makes (R122). -/
theorem bfWriteReadsModifiesWrites : Obligations.BfWriteReadsModifiesWrites := by
  intro d value s hl
  refine ⟨fun hs => ⟨fun hok => ?_, endsOnFailure_at hs rfl (by decide)⟩,
    fun hs => ⟨fun hok => ?_, endsOnFailure_at hs rfl (by decide)⟩⟩
  · rw [exec_bfWrite_bfRd d value hs]
    by_cases hfits : insertField d (fold d.lsbf (s.sees d.ra d.rw.toNat)) value.toNat < 2 ^ (8 * d.rw.toNat)
    · obtain ⟨t, he, hgo, hacc, hlog, hbuf, hkeeps, hstore⟩ := fieldModify_goesOn (field_inside_of_legal hl).1 hok hfits
      exact ⟨t, he, hlog, hbuf, hkeeps, hstore, fun _ => ⟨hgo, hacc⟩, fun hover => absurd hfits (not_lt_of_ge hover)⟩
    · exact ⟨_, fieldModify_overflows d _ _ hok (decide_eq_true (not_lt.mp hfits)), rfl, rfl,
        keeps_afterRead s d.ra d.rw.toNat, storesNothing_of_mem rfl, fun hfits' => absurd hfits' hfits,
        fun _ => responds_afterRead s _ _ _ _ _⟩
  · exact ⟨_, exec_bfWrite_bfWr_ok d value hs hok, responds_afterWrite s _ _ _ _, rfl, rfl, rfl,
      keeps_afterWrite s d.ra _, storesBytes_of_mem (beBytes_length_le_eight _ _) rfl⟩

/-! ### RAW_WRITE -/

theorem lowByte_eq (value : Word) : lowByte value = BitVec.ofNat 8 (value.toNat &&& 0xFF) := by
  apply BitVec.eq_of_toNat_eq
  rw [lowByte, BitVec.toNat_setWidth, BitVec.toNat_ofNat, Nat.and_two_pow_sub_one_eq_mod value.toNat 8, Nat.mod_mod]

/-- RAW_WRITE where its write succeeds (R142). -/
theorem exec_rawWrite_rawWr_ok {s : State} (d : RawRegister) (value : Word) (hs : s.seq = .rawWr)
    (hok : s.move.reply = .ok) :
    exec (.rawWrite d value) s = .next ((s.afterWrite d.ra [lowByte value]).respond .ok 0#32) := by
  rw [exec_rawWrite_rawWr d value hs, memWrite_ok _ hok]

/-- Settles O24: the step by its write's reply; the one byte sent is the value's low byte (R142). -/
theorem rawWriteSendsOneByte : Obligations.RawWriteSendsOneByte := by
  intro d value s hs
  rw [← lowByte_eq]
  refine ⟨fun hok => ⟨_, exec_rawWrite_rawWr_ok d value hs hok, ?_⟩, endsOnFailure_at hs rfl (by decide)⟩
  exact ⟨responds_afterWrite s _ _ _ _, rfl, rfl, rfl, keeps_afterWrite s d.ra _, storesBytes_of_mem (by simp) rfl⟩

/-! ### INIT, phases 2 and 3: the two read-modify-writes of CONFIGURATION -/

/-- What `Config.wf` says of the fields INIT uses. -/
theorem wf_bounds {c : Config} (h : c.wf = true) :
    2 ≤ c.wMax ∧ c.wMax ≤ 4 ∧ c.modeSb.toNat + 2 ≤ 16 ∧ c.srstSb.toNat + 1 ≤ 16 := by
  simp only [Config.wf, Bool.and_eq_true, decide_eq_true_eq] at h
  omega

theorem descSrst_legal {c : Config} (h : c.wf = true) : (descSrst c).legal c = true := by
  obtain ⟨hlow, -, -, hsb⟩ := wf_bounds h
  simp [BitField.legal, descSrst]
  omega

theorem descMode_legal {c : Config} (h : c.wf = true) : (descMode c).legal c = true := by
  obtain ⟨hlow, -, hsb, -⟩ := wf_bounds h
  simp [BitField.legal, descMode]
  omega

/-- The window phase 2 writes back: the soft-reset bit set (R163). -/
def softResetWindow (s : State) : Nat := insertField (descSrst s.cfg) (foldMsb (s.sees 0x01#8 2)) 1

/-- The window phase 3 writes back: the mode field cleared to continuous conversion (R164). -/
def continuousWindow (s : State) : Nat := insertField (descMode s.cfg) (foldMsb (s.sees 0x01#8 2)) modeContinuous

section
variable {s : State}

theorem softResetWindow_lt (hwf : s.cfg.wf = true) : softResetWindow s < 2 ^ (8 * 2) :=
  insertField_lt_of_legal (descSrst_legal hwf) (foldMsb_sees_lt s 0x01#8) (by decide : 1 < 2 ^ 1)

theorem continuousWindow_lt (hwf : s.cfg.wf = true) : continuousWindow s < 2 ^ (8 * 2) :=
  insertField_lt_of_legal (descMode_legal hwf) (foldMsb_sees_lt s 0x01#8) (by decide : 0 < 2 ^ 2)

end

theorem softResetWindow_eq (s : State) : softResetWindow s =
    clearBits (foldMsb (s.sees 0x01#8 2)) (1 <<< s.cfg.srstSb.toNat) ||| (1 <<< s.cfg.srstSb.toNat) := rfl

theorem continuousWindow_eq (s : State) :
    continuousWindow s = clearBits (foldMsb (s.sees 0x01#8 2)) (0b11 <<< s.cfg.modeSb.toNat) := by
  have hmask : maskOf (descMode s.cfg) = 0b11 <<< s.cfg.modeSb.toNat := rfl
  rw [continuousWindow, insertField, hmask, modeContinuous, Nat.zero_shiftLeft, Nat.or_zero]

/-- Settles O26: the two halves of the read-modify-write of the soft-reset bit (R163). -/
theorem initRequestsTheSoftReset : Obligations.InitRequestsTheSoftReset := by
  intro addr s hwf
  refine ⟨fun hs => ⟨fun hok => ?_, endsOnFailure_at hs rfl (by decide)⟩,
    fun hs => ⟨fun hok => ?_, endsOnFailure_at hs rfl (by decide)⟩⟩
  · obtain ⟨t, he, hgo, hacc, hrest⟩ :=
      fieldModify_goesOn (d := descSrst s.cfg) (by decide : 2 ≤ 4) hok (softResetWindow_lt hwf)
    exact ⟨t, (exec_init_iSrstRd addr hs).trans he, hgo, hacc.trans (softResetWindow_eq s), hrest⟩
  · rw [exec_init_iSrstWr addr hs]
    exact fieldWriteBack_goesOn (d := descSrst s.cfg) hok

/-- Settles O27: the two halves of the read-modify-write of the mode field (R164). -/
theorem initSetsContinuousConversion : Obligations.InitSetsContinuousConversion := by
  intro addr s hwf
  refine ⟨fun hs => ⟨fun hok => ?_, endsOnFailure_at hs rfl (by decide)⟩,
    fun hs => ⟨fun hok => ?_, endsOnFailure_at hs rfl (by decide)⟩⟩
  · obtain ⟨t, he, hgo, hacc, hrest⟩ :=
      fieldModify_goesOn (d := descMode s.cfg) (by decide : 2 ≤ 4) hok (continuousWindow_lt hwf)
    exact ⟨t, (exec_init_iModeRd addr hs).trans he, hgo, hacc.trans (continuousWindow_eq s), hrest⟩
  · rw [exec_init_iModeWr addr hs]
    exact fieldWriteBack_goesOn (d := descMode s.cfg) hok

/-! ### INIT, phase 4 and completion -/

/-- The data-ready field is one bit: the test is that bit of what was read (R43, R165). -/
theorem dataReady_iff (c : Config) (acc : Nat) :
    dataReady (extractField (descDrdy c) acc) = true ↔ (acc >>> c.drdySb.toNat) % 2 = 1 := by
  have hbit : extractField (descDrdy c) acc = (acc >>> c.drdySb.toNat) % 2 := by
    apply Nat.eq_of_testBit_eq
    intro k
    rw [extractField, maskOf, Nat.testBit_shiftRight, Nat.testBit_and, testBit_fieldMask, ← pow_one 2,
      Nat.testBit_mod_two_pow, Nat.testBit_shiftRight]
    simp [descDrdy, Bool.and_comm]
  rw [dataReady, hbit, decide_eq_true_iff]

/-- The poll read where it succeeds: the next step is by the data-ready bit (R165). -/
theorem exec_init_iPollRd_ok {s : State} (addr : Word) (hs : s.seq = .iPollRd) (hok : s.move.reply = .ok) :
    exec (.init addr) s = .next (((s.afterRead 0x01#8 2).setAcc (foldMsb (s.sees 0x01#8 2))).setSeq
      (if (foldMsb (s.sees 0x01#8 2) >>> s.cfg.drdySb.toNat) % 2 = 1 then .iPrimeRd else .iPollWait)) := by
  rw [exec_init_iPollRd addr hs, fieldRead_ok (descDrdy s.cfg) _ hok]
  simp only [dataReady_iff]
  rfl

/-- Settles O28: the poll by its read's reply and the bit read, the delay by its one step (R165, R216). -/
theorem initPollsDataReady : Obligations.InitPollsDataReady := by
  refine ⟨fun addr s hs => ⟨fun hok => ?_, endsOnFailure_at hs rfl (by decide)⟩, fun addr s hs => ?_⟩
  · have hacc := setAcc_toNat (s.afterRead 0x01#8 2) (foldMsb_sees_lt s 0x01#8) (by decide)
    exact ⟨_, exec_init_iPollRd_ok addr hs hok, goesOn_afterRead s _ _ _ _, rfl, rfl, hacc, keeps_afterRead s 0x01#8 2,
      storesNothing_of_mem rfl⟩
  · rw [exec_init_iPollWait addr hs, pollWait]
    rfl

/-- INIT completes where the priming read succeeds (R168). -/
theorem exec_init_iPrimeRd_ok {s : State} (addr : Word) (hs : s.seq = .iPrimeRd) (hok : s.move.reply = .ok) :
    exec (.init addr) s = .next ((s.afterRead 0x00#8 2).completeHandle.respond .ok 0#32) := by
  rw [exec_init_iPrimeRd addr hs, memRead_ok _ hok]
  rfl

/-- Settles O29: the step by its read's reply, and the frame of that read but for `INITED` (R167, R168). -/
theorem initCompletesAfterThePrimingRead : Obligations.InitCompletesAfterThePrimingRead := by
  intro addr s hs
  refine ⟨fun hok => ⟨_, exec_init_iPrimeRd_ok addr hs hok, ?_⟩, endsOnFailure_at hs rfl (by decide)⟩
  simp [Responds, Logs, Buffers]
  exact storesNothing_of_mem rfl

/-! ### ALERT_STATUS -/

theorem bitAt_eq (v k : Nat) : bitAt v k = v / 2 ^ k % 2 := by
  rw [bitAt, Nat.and_one_is_mod, Nat.shiftRight_eq_div_pow]

theorem alertBits_eq (c : Config) (v : Nat) :
    alertBits c v = 2 * (v / 2 ^ c.alertHighSb.toNat % 2) + v / 2 ^ c.alertLowSb.toNat % 2 := by
  have hlow : v / 2 ^ c.alertLowSb.toNat % 2 < 2 ^ 1 := Nat.mod_lt _ Nat.two_pos
  rw [alertBits, bitAt_eq, bitAt_eq, ← Nat.shiftLeft_add_eq_or_of_lt hlow, Nat.shiftLeft_eq]
  omega

/-- ALERT_STATUS where its read succeeds (R175). -/
theorem exec_alertStatus_aRd_ok {s : State} (data : Word) (hs : s.seq = .aRd) (hok : s.move.reply = .ok) :
    exec (.alertStatus data) s =
      .next (((s.afterRead 0x01#8 2).setAcc (foldMsb (s.sees 0x01#8 2))).respond .ok
        (zext32 (alertBits s.cfg (foldMsb (s.sees 0x01#8 2))))) := by
  rw [exec_alertStatus_aRd data hs, rawFetch_ok ⟨configurationAddr, false, 2#3⟩ _ hok]
  simp [configurationAddr]

/-- Settles O31: the step by its read's reply; the two bits read are the two bits of the result (R175). -/
theorem alertStatusReturnsTheFlags : Obligations.AlertStatusReturnsTheFlags := by
  intro data s hs
  refine ⟨fun hok => ?_, endsOnFailure_at hs rfl (by decide)⟩
  intro bytes cfg
  have hacc := setAcc_toNat (s.afterRead 0x01#8 2) (foldMsb_sees_lt s 0x01#8) (by decide)
  have hexec := exec_alertStatus_aRd_ok data hs hok
  rw [alertBits_eq] at hexec
  exact ⟨_, hexec, responds_afterRead s _ _ _ _ _, rfl, rfl, hacc, keeps_afterRead s 0x01#8 2, storesNothing_of_mem rfl⟩

/-! ### A transaction that fails, or has not returned, at any step of any command -/

/-- Settles O32: every step but INIT's delay is one read or one write, whose failure ends the command (R202). -/
theorem transportFailuresEndTheCommand : Obligations.TransportFailuresEndTheCommand := by
  intro i s c hstep hwait hc
  have hkeeps := keeps_afterMove s s.heldMem
  rw [BitVec.ofNat_toNat]
  rcases exec_transaction i hstep hwait with ⟨ra, n, k, he⟩ | ⟨ra, bs, k, he⟩
  · exact ⟨_, he.trans (memRead_fail k hc), ⟨rfl, rfl⟩, rfl, hkeeps, storesNothing_of_mem rfl, .inl ⟨ra, n, rfl, rfl⟩⟩
  · exact ⟨_, he.trans (memWrite_fail k hc), ⟨rfl, rfl⟩, rfl, hkeeps, storesNothing_of_mem rfl, .inr ⟨ra, bs, rfl, rfl⟩⟩

/-- Settles O33: every step but INIT's delay is one read or one write, which stays where it is while it is pending
(R248). -/
theorem theBlockWaitsForTheTransport : Obligations.TheBlockWaitsForTheTransport := by
  intro i s hstep hwait hp
  have hkeeps := keeps_afterMove s s.heldMem
  rcases exec_transaction i hstep hwait with ⟨ra, n, k, he⟩ | ⟨ra, bs, k, he⟩
  · exact ⟨_, he.trans (memRead_pending k hp), ⟨rfl, rfl⟩, rfl, rfl, hkeeps, storesNothing_of_mem rfl⟩
  · exact ⟨_, he.trans (memWrite_pending k hp), ⟨rfl, rfl⟩, rfl, rfl, hkeeps, storesNothing_of_mem rfl⟩

section
variable {i : Instr} {s : State} {c : Cause} {ra : RegAddr}

theorem logs_of_memRead_fail {n : Nat} {k : List Byte → State → Result} (hc : s.move.reply = .fail c)
    (he : exec i s = memRead ra n s k) : ∃ t, exec i s = .next t ∧ Logs s t (.readFailed s.devAddr ra n c) :=
  ⟨_, he.trans (memRead_fail k hc), rfl⟩

theorem logs_of_memWrite_fail {bs : List Byte} {k : State → Result} (hc : s.move.reply = .fail c)
    (he : exec i s = memWrite ra bs s k) : ∃ t, exec i s = .next t ∧ Logs s t (.writeFailed s.devAddr ra bs c) :=
  ⟨_, he.trans (memWrite_fail k hc), rfl⟩

end

/-- Settles O49: the transaction of each step of each command, as its meaning names it (R202). -/
theorem failedTransactionsAreTheStepsOwn : Obligations.FailedTransactionsAreTheStepsOwn := by
  intro i s c hstep hwait hc
  cases i with
  | bfRead d data => exact logs_of_memRead_fail hc (exec_bfRead_bfRd d data (by simpa [hasStep] using hstep))
  | bfWrite d value =>
    rcases (by simpa [hasStep] using hstep : s.seq = .bfRd ∨ s.seq = .bfWr) with hs | hs
    · rw [failedEvent, if_pos hs]
      exact logs_of_memRead_fail hc (exec_bfWrite_bfRd d value hs)
    · rw [failedEvent, if_neg (by simp [hs])]
      exact logs_of_memWrite_fail hc (exec_bfWrite_bfWr d value hs)
  | rawRead d data => exact logs_of_memRead_fail hc (exec_rawRead_rawRd d data (by simpa [hasStep] using hstep))
  | rawWrite d value =>
    rw [failedEvent, ← lowByte_eq]
    exact logs_of_memWrite_fail hc (exec_rawWrite_rawWr d value (by simpa [hasStep] using hstep))
  | tempRead data => exact logs_of_memRead_fail hc (exec_tempRead_tRd data (by simpa [hasStep] using hstep))
  | alertStatus data => exact logs_of_memRead_fail hc (exec_alertStatus_aRd data (by simpa [hasStep] using hstep))
  | init addr =>
    cases hs : s.seq <;> simp [hasStep, hs] at hstep hwait <;> simp [failedEvent, hs]
    case iId => exact logs_of_memRead_fail hc (exec_init_iId addr hs)
    case iSrstRd => exact logs_of_memRead_fail hc (exec_init_iSrstRd addr hs)
    case iSrstWr => exact logs_of_memWrite_fail hc (exec_init_iSrstWr addr hs)
    case iModeRd => exact logs_of_memRead_fail hc (exec_init_iModeRd addr hs)
    case iModeWr => exact logs_of_memWrite_fail hc (exec_init_iModeWr addr hs)
    case iPollRd => exact logs_of_memRead_fail hc (exec_init_iPollRd addr hs)
    case iPrimeRd => exact logs_of_memRead_fail hc (exec_init_iPrimeRd addr hs)

end Sys2Proof.Machine
end

section
/-! PROOFS. Everything a step of the machine can do, once: the steps of a command in progress by their transaction's
reply, and the steps of the block by what they find to do (spec/10_state.md R36, R37; spec/30_encoding.md R92, R110). -/

namespace Sys2Proof.Machine

/-! ### A step of a command in progress -/

/-- A window of `n` bytes fits `BUF`, where the command in progress passed its range checks (R10, R100, R101). -/
def FitsBuf (c : Config) (i : Instr) (n : Nat) : Prop := c.wf = true → Instr.legal c i = true → n ≤ c.wMax

/-- What command `i` can make of a state at a step of its own: the delay between two polls, a transaction after which it
goes on or ends, one that fails, or one that has not returned. -/
inductive Progress (i : Instr) (s : State) : State → Prop where
  | delays (hs : s.seq = .iPollWait) (hq : Seq.iPollRd ∈ successors i s.seq) (hstep : hasStep i .iPollRd = true) :
    Progress i s ((s.log (.delay s.cfg.pollDelay)).setSeq .iPollRd)
  | readsOn (ra : RegAddr) (n v : Nat) (q : Seq) (hok : s.move.reply = .ok) (hn : FitsBuf s.cfg i n)
      (hv : v < 2 ^ (8 * n)) (hback : q.writesBack = true → n = backWidth i) (hq : q ∈ successors i s.seq)
      (hstep : hasStep i q = true) : Progress i s (((s.afterRead ra n).setAcc v).setSeq q)
  | readsEnd (ra : RegAddr) (n v : Nat) (st : Status) (r : Word) (hok : s.move.reply = .ok) (hn : FitsBuf s.cfg i n)
      (hv : n ≤ s.cfg.wMax → v < 2 ^ (8 * s.cfg.wMax)) (hq : s.cfg.wf = true → Seq.idle ∈ successors i s.seq) :
    Progress i s (((s.afterRead ra n).setAcc v).respond st r)
  | completes (ra : RegAddr) (n : Nat) (hok : s.move.reply = .ok) (hs : s.seq = .iPrimeRd) (hn : FitsBuf s.cfg i n)
      (hq : Seq.idle ∈ successors i s.seq) : Progress i s ((s.afterRead ra n).completeHandle.respond .ok 0#32)
  | writesOn (ra : RegAddr) (bs : List Byte) (q : Seq) (hok : s.move.reply = .ok) (hn : FitsBuf s.cfg i bs.length)
      (hback : q.writesBack = false) (hq : q ∈ successors i s.seq) (hstep : hasStep i q = true) :
    Progress i s ((s.afterWrite ra bs).setSeq q)
  | writesEnd (ra : RegAddr) (bs : List Byte) (hok : s.move.reply = .ok) (hn : FitsBuf s.cfg i bs.length)
      (hq : Seq.idle ∈ successors i s.seq) : Progress i s ((s.afterWrite ra bs).respond .ok 0#32)
  | readFails (ra : RegAddr) (n : Nat) (c : Cause) (hc : s.move.reply = .fail c) (hwait : s.seq ≠ .iPollWait) :
    Progress i s (((s.afterMove s.heldMem).log (.readFailed s.devAddr ra n c)).raise .busIOError (c.setWidth 32))
  | writeFails (ra : RegAddr) (bs : List Byte) (c : Cause) (hc : s.move.reply = .fail c) (hwait : s.seq ≠ .iPollWait)
      (hn : FitsBuf s.cfg i bs.length) :
    Progress i s ((((s.loadBuf bs).afterMove s.heldMem).log (.writeFailed s.devAddr ra bs c)).raise .busIOError
      (c.setWidth 32))
  | readWaits (hp : s.move.reply = .pending) (hwait : s.seq ≠ .iPollWait) : Progress i s (s.afterMove s.heldMem)
  | writeWaits (bs : List Byte) (hp : s.move.reply = .pending) (hwait : s.seq ≠ .iPollWait)
      (hn : FitsBuf s.cfg i bs.length) : Progress i s ((s.loadBuf bs).afterMove s.heldMem)

/-- The command's meaning answers a next state, and it is one of those a step in progress can make. -/
def Progresses (i : Instr) (s : State) (r : Result) : Prop := ∃ t, r = .next t ∧ Progress i s t

section
variable {i : Instr} {s : State}

theorem memRead_progresses {ra : RegAddr} {n : Nat} {k : List Byte → State → Result} (hwait : s.seq ≠ .iPollWait)
    (hok : s.move.reply = .ok → Progresses i s (k (s.sees ra n) (s.afterRead ra n))) :
    Progresses i s (memRead ra n s k) := by
  rcases memRead_cases ra n s k with ⟨h, he⟩ | ⟨c, h, he⟩ | ⟨h, he⟩
  · exact he ▸ hok h
  · exact ⟨_, he, .readFails ra n c h hwait⟩
  · exact ⟨_, he, .readWaits h hwait⟩

theorem memWrite_progresses {ra : RegAddr} {bs : List Byte} {k : State → Result} (hwait : s.seq ≠ .iPollWait)
    (hn : FitsBuf s.cfg i bs.length) (hok : s.move.reply = .ok → Progresses i s (k (s.afterWrite ra bs))) :
    Progresses i s (memWrite ra bs s k) := by
  rcases memWrite_cases ra bs s k with ⟨h, he⟩ | ⟨c, h, he⟩ | ⟨h, he⟩
  · exact he ▸ hok h
  · exact ⟨_, he, .writeFails ra bs c h hwait hn⟩
  · exact ⟨_, he, .writeWaits bs h hwait hn⟩

theorem fold_sees_lt (s : State) (lsbf : Bool) (ra : RegAddr) (n : Nat) : fold lsbf (s.sees ra n) < 2 ^ (8 * n) := by
  simpa using fold_lt lsbf (s.sees ra n)

/-- A value of a window fits `ACC` where the window fits `BUF` (R34). -/
theorem lt_of_fits {v n w : Nat} (hv : v < 2 ^ (8 * n)) (hn : n ≤ w) : v < 2 ^ (8 * w) :=
  hv.trans_le (Nat.pow_le_pow_right Nat.two_pos (Nat.mul_le_mul_left 8 hn))

/-- A whole register read and answered: RAW_READ, TEMP_READ, ALERT_STATUS (R141, R171, R175). -/
theorem rawFetch_progresses (d : RawRegister) (result : Nat → State → Word) (hwait : s.seq ≠ .iPollWait)
    (hn : FitsBuf s.cfg i d.len.toNat) (hq : Seq.idle ∈ successors i s.seq) :
    Progresses i s (rawFetch d s fun u t => .next (t.respond .ok (result u t))) :=
  memRead_progresses hwait fun hok =>
    ⟨_, rfl, .readsEnd _ _ _ _ _ hok hn (lt_of_fits (fold_sees_lt s false _ _)) fun _ => hq⟩

/-- A read-modify-write's read half goes on to the write half, or overflows: BF_WRITE, and INIT's two (R122). -/
theorem fieldModify_progresses (d : BitField) (value : Nat) (q : Seq) (hwait : s.seq ≠ .iPollWait)
    (hn : FitsBuf s.cfg i d.rw.toNat) (hback : d.rw.toNat = backWidth i) (hq : q ∈ successors i s.seq)
    (hstep : hasStep i q = true)
    (hover : s.cfg.wf = true → fieldOverflows d (insertField d (fold d.lsbf (s.sees d.ra d.rw.toNat)) value) = true →
      Seq.idle ∈ successors i s.seq) : Progresses i s (fieldModify d value q s) := by
  refine memRead_progresses hwait fun hok => ?_
  cases hfits : fieldOverflows d (insertField d (fold d.lsbf (s.sees d.ra d.rw.toNat)) value) with
  | true =>
    exact ⟨_, if_pos hfits, .readsEnd _ _ _ _ _ hok hn (fun _ => Nat.mod_lt _ (Nat.two_pow_pos _))
      fun hwf => hover hwf hfits⟩
  | false =>
    exact ⟨_, if_neg (ne_true_of_eq_false hfits), .readsOn _ _ _ _ hok hn ((fieldOverflows_eq_false_iff d _).mp hfits)
      (fun _ => hback) hq hstep⟩

/-- A read-modify-write's write half, where the command goes on after it (R163, R164). -/
theorem fieldWriteBack_goesOn_progresses (d : BitField) (q : Seq) (hwait : s.seq ≠ .iPollWait)
    (hn : FitsBuf s.cfg i d.rw.toNat) (hback : q.writesBack = false) (hq : q ∈ successors i s.seq)
    (hstep : hasStep i q = true) : Progresses i s (fieldWriteBack d s fun t => .next (t.setSeq q)) := by
  have hn' : FitsBuf s.cfg i (beBytes s.acc.toNat d.rw.toNat).length := by rwa [beBytes_length]
  exact memWrite_progresses hwait hn' fun hok => ⟨_, rfl, .writesOn _ _ _ hok hn' hback hq hstep⟩

/-- A write after which the command ends (R122, R142). -/
theorem memWrite_respond_progresses (ra : RegAddr) (bs : List Byte) (hwait : s.seq ≠ .iPollWait)
    (hn : FitsBuf s.cfg i bs.length) (hq : Seq.idle ∈ successors i s.seq) :
    Progresses i s (memWrite ra bs s fun t => .next (t.respond .ok 0#32)) :=
  memWrite_progresses hwait hn fun hok => ⟨_, rfl, .writesEnd _ _ hok hn hq⟩

end

/-! ### The windows of the commands -/

theorem fitsBuf_two (c : Config) (i : Instr) : FitsBuf c i 2 := fun hwf _ => (wf_bounds hwf).1

theorem rw_le_wMax_of_legal {c : Config} {d : BitField} (h : d.legal c = true) : d.rw.toNat ≤ c.wMax := by
  simp only [BitField.legal, Bool.and_eq_true, decide_eq_true_eq] at h
  omega

theorem len_le_wMax_of_legal {c : Config} {d : RawRegister} (h : d.legal c = true) :
    1 ≤ d.len.toNat ∧ d.len.toNat ≤ c.wMax := by
  simp only [RawRegister.legal, Bool.and_eq_true, decide_eq_true_eq] at h
  omega

/-- INIT at each of its steps (R162 to R168). -/
theorem exec_init_progresses (addr : Word) {s : State} (h : hasStep (.init addr) s.seq = true) :
    Progresses (.init addr) s (exec (.init addr) s) := by
  have hn := fitsBuf_two s.cfg (.init addr)
  cases hs : s.seq <;> simp [hasStep, hs] at h
  case iId =>
    rw [exec_init_iId addr hs]
    refine memRead_progresses (by simp [hs]) fun hok => ?_
    have hv := fold_sees_lt s false 0x0F#8 2
    cases hid : identityMatches s.cfg (foldMsb (s.sees 0x0F#8 2)) with
    | true =>
      exact ⟨_, if_pos hid, .readsOn _ _ _ _ hok hn hv (by simp [Seq.writesBack]) (by simp [successors, hs]) rfl⟩
    | false =>
      exact ⟨_, if_neg (ne_true_of_eq_false hid), .readsEnd _ _ _ _ _ hok hn (lt_of_fits hv) (by simp [successors, hs])⟩
  case iSrstRd =>
    rw [exec_init_iSrstRd addr hs]
    exact fieldModify_progresses _ _ _ (by simp [hs]) hn rfl (by simp [successors, hs]) rfl fun hwf hover =>
      absurd (softResetWindow_lt hwf) (not_lt_of_ge (of_decide_eq_true hover))
  case iSrstWr =>
    rw [exec_init_iSrstWr addr hs]
    exact fieldWriteBack_goesOn_progresses _ _ (by simp [hs]) hn rfl (by simp [successors, hs]) rfl
  case iModeRd =>
    rw [exec_init_iModeRd addr hs]
    exact fieldModify_progresses _ _ _ (by simp [hs]) hn rfl (by simp [successors, hs]) rfl fun hwf hover =>
      absurd (continuousWindow_lt hwf) (not_lt_of_ge (of_decide_eq_true hover))
  case iModeWr =>
    rw [exec_init_iModeWr addr hs]
    exact fieldWriteBack_goesOn_progresses _ _ (by simp [hs]) hn rfl (by simp [successors, hs]) rfl
  case iPollRd =>
    rw [exec_init_iPollRd addr hs]
    refine memRead_progresses (by simp [hs]) fun hok => ⟨_, rfl, ?_⟩
    have hv := fold_sees_lt s false 0x01#8 2
    exact .readsOn _ _ _ _ hok hn hv (by split <;> simp [Seq.writesBack]) (by split <;> simp [successors, hs])
      (by split <;> rfl)
  case iPollWait =>
    rw [exec_init_iPollWait addr hs]
    exact ⟨_, rfl, .delays hs (by simp [successors, hs]) rfl⟩
  case iPrimeRd =>
    rw [exec_init_iPrimeRd addr hs]
    exact memRead_progresses (by simp [hs]) fun hok => ⟨_, rfl, .completes _ _ hok hs hn (by simp [successors, hs])⟩

/-- Every command at each of its steps. -/
theorem exec_progresses {i : Instr} {s : State} (h : hasStep i s.seq = true) : Progresses i s (exec i s) := by
  cases i with
  | init addr => exact exec_init_progresses addr h
  | bfRead d data =>
    have hs : s.seq = .bfRd := by simpa [hasStep] using h
    rw [exec_bfRead_bfRd d data hs]
    exact memRead_progresses (by simp [hs]) fun hok => ⟨_, rfl, .readsEnd _ _ _ _ _ hok (fun _ => rw_le_wMax_of_legal)
      (lt_of_fits (fold_sees_lt s _ _ _)) (by simp [successors, hs])⟩
  | bfWrite d value =>
    have hn : FitsBuf s.cfg (.bfWrite d value) d.rw.toNat := fun _ => rw_le_wMax_of_legal
    rcases (by simpa [hasStep] using h : s.seq = .bfRd ∨ s.seq = .bfWr) with hs | hs
    · rw [exec_bfWrite_bfRd d value hs]
      exact fieldModify_progresses _ _ _ (by simp [hs]) hn rfl (by simp [successors, hs]) rfl (by simp [successors, hs])
    · rw [exec_bfWrite_bfWr d value hs]
      exact memWrite_respond_progresses _ _ (by simp [hs]) (by rwa [beBytes_length]) (by simp [successors, hs])
  | rawRead d data =>
    have hs : s.seq = .rawRd := by simpa [hasStep] using h
    rw [exec_rawRead_rawRd d data hs]
    exact rawFetch_progresses d _ (by simp [hs]) (fun _ hl => (len_le_wMax_of_legal hl).2) (by simp [successors, hs])
  | rawWrite d value =>
    have hs : s.seq = .rawWr := by simpa [hasStep] using h
    have hn : FitsBuf s.cfg (.rawWrite d value) 1 := fun _ hl =>
      have hlen := len_le_wMax_of_legal hl
      hlen.1.trans hlen.2
    rw [exec_rawWrite_rawWr d value hs]
    exact memWrite_respond_progresses _ _ (by simp [hs]) hn (by simp [successors, hs])
  | tempRead data =>
    have hs : s.seq = .tRd := by simpa [hasStep] using h
    rw [exec_tempRead_tRd data hs]
    exact rawFetch_progresses descTemp _ (by simp [hs]) (fitsBuf_two _ _) (by simp [successors, hs])
  | alertStatus data =>
    have hs : s.seq = .aRd := by simpa [hasStep] using h
    rw [exec_alertStatus_aRd data hs]
    exact rawFetch_progresses _ _ (by simp [hs]) (fitsBuf_two _ _) (by simp [successors, hs])

/-! ### A step of the block -/

/-- What a step of the machine can make of a state: the block's reset; in `IDLE` a wait, a refusal, or the acceptance of
a command; else a step of the command in progress. -/
inductive Transition (s : State) : State → Prop where
  | resets (rest : List HostInput) (hin : s.inbox = .reset :: rest) : Transition s (s.setInbox rest).blockReset
  | waits (rest : List HostInput) (hs : s.seq = .idle) : Transition s (s.setInbox rest)
  | refuses (rest : List HostInput) (e : Status) (hs : s.seq = .idle) : Transition s ((s.setInbox rest).raise e 0#32)
  | starts (rest : List HostInput) (i : Instr) (hs : s.seq = .idle) (hl : Instr.legal s.cfg i = true)
      (hi : i.isInit = false) (hinited : s.inited = true) :
    Transition s (((s.setInbox rest).latch i).setSeq (firstStep i))
  | opens (rest : List HostInput) (addr : Word) (hs : s.seq = .idle) (hl : Instr.legal s.cfg (.init addr) = true) :
    Transition s ((((s.setInbox rest).latch (.init addr)).openHandle addr).setSeq .iId)
  | progresses (i : Instr) (t : State) (hs : s.seq ≠ .idle) (hd : decode s.cmd s.data = .ok i)
      (hstep : hasStep i s.seq = true) (h : Progress i (s.setInbox s.waitingInputs) t) : Transition s t

/-- The acceptance of a presented command is a refusal, a start, or INIT's opening of the handle (R110). -/
theorem exec_idle_transition (i : Instr) {s : State} (rest : List HostInput) (hs : s.seq = .idle) :
    ∃ t, exec i (s.setInbox rest) = .next t ∧ Transition s t := by
  have hidle : (s.setInbox rest).seq = .idle := hs
  cases hl : Instr.legal s.cfg i with
  | false => exact ⟨_, exec_idle_illegal hidle hl, .refuses rest _ hs⟩
  | true =>
    cases hi : i.isInit with
    | true =>
      obtain ⟨addr, rfl⟩ := (isInit_iff i).mp hi
      exact ⟨_, exec_init_idle_starts hidle hl, .opens rest addr hs hl⟩
    | false =>
      cases hinited : s.inited with
      | false => exact ⟨_, exec_idle_notReady hidle hl hi hinited, .refuses rest _ hs⟩
      | true => exact ⟨_, exec_idle_starts hidle hl hi hinited, .starts rest i hs hl hi hinited⟩

/-- A step answers a next state, unless a command is in progress and `seq` is no step of the command in the latches. -/
theorem step_transition (s : State) :
    (∃ t, step s = .next t ∧ Transition s t) ∨
    (s.seq ≠ .idle ∧ (∀ i, decode s.cmd s.data = .ok i → hasStep i s.seq = false) ∧ ∃ f, step s = .fault f) := by
  rcases fetch_cases s with ⟨rest, hin, -⟩ | ⟨cmd, data, rest, hs, hin, ⟨i, hd, -⟩ | ⟨e, he, -⟩⟩ |
    ⟨hreset, rest, hrest, ⟨hs, hf⟩ | ⟨hs, ⟨i, hd, -⟩ | ⟨e, he, hf⟩⟩⟩
  · exact .inl ⟨_, step_reset hin, .resets rest hin⟩
  · rw [step_command hs hin hd]
    exact .inl (exec_idle_transition i rest hs)
  · exact .inl ⟨_, step_reserved hs hin he, .refuses rest _ hs⟩
  · exact .inl ⟨s.setInbox rest, by rw [step, hf], .waits rest hs⟩
  · have hne : (s.setInbox s.waitingInputs).seq ≠ .idle := hs
    rw [step_running hs hreset hd]
    cases hstep : hasStep i s.seq with
    | true =>
      obtain ⟨t, he, ht⟩ := exec_progresses (s := s.setInbox s.waitingInputs) hstep
      exact .inl ⟨t, he, .progresses i t hs hd hstep ht⟩
    | false =>
      refine .inr ⟨hs, fun j hj => ?_, _, exec_foreign i hne hstep⟩
      obtain rfl : i = j := Except.ok.inj (hd.symm.trans hj)
      exact hstep
  · refine .inr ⟨hs, fun i hd => ?_, .latchNotACommand, by rw [step, hf]⟩
    rw [hd] at he
    cases he

theorem transition_of_step {s t : State} (h : step s = .next t) : Transition s t := by
  rcases step_transition s with ⟨u, hu, htrans⟩ | ⟨-, -, f, hf⟩
  · obtain rfl : t = u := Host.Outcome.next.inj (h.symm.trans hu)
    exact htrans
  · rw [hf] at h
    cases h

/-- While a command is in progress a step without a reset is that command's. -/
theorem progress_of_step {s t : State} (hs : s.seq ≠ .idle) (hreset : s.inbox.head? ≠ some .reset)
    (h : step s = .next t) :
    ∃ i, decode s.cmd s.data = .ok i ∧ hasStep i s.seq = true ∧ Progress i (s.setInbox s.waitingInputs) t := by
  cases transition_of_step h with
  | resets rest hin => exact absurd (congrArg List.head? hin) hreset
  | waits _ hidle => exact absurd hidle hs
  | refuses _ _ hidle => exact absurd hidle hs
  | starts _ _ hidle => exact absurd hidle hs
  | opens _ _ hidle => exact absurd hidle hs
  | progresses i t _ hd hstep h => exact ⟨i, hd, hstep, h⟩

end Sys2Proof.Machine
end

section
/-! PROOFS. The invariant, kept by every step and never the state of a fault, and the rules of the whole machine: the
sequencer's table, who writes which register, one transaction and one response at a time (spec/10_state.md R34 to R37,
R57; spec/20_memory.md R76; spec/30_encoding.md R91, R92). -/

namespace Sys2Proof.Machine

/-! ### The sizes of the working registers and the device's canonical form -/

/-- The part of the invariant that speaks of no command. -/
def State.Sound (s : State) : Prop :=
  s.cfg.wf = true ∧ Memory.wf s.mem = true ∧ s.buf.length = s.cfg.wMax ∧ s.acc.toNat < 2 ^ (8 * s.cfg.wMax)

theorem inv_iff (s : State) : s.Inv ↔ s.Sound ∧ s.latchesHold = true := by
  simp only [State.Inv, State.Sound, and_assoc]

section
variable {s t : State}

theorem sound_of_same (h : s.Sound) (hcfg : t.cfg = s.cfg) (hmem : t.mem = s.mem) (hbuf : t.buf = s.buf)
    (hacc : t.acc = s.acc) : t.Sound := by
  rwa [State.Sound, hcfg, hmem, hbuf, hacc]

theorem sound_loadBuf {bs : List Byte} (h : s.Sound) (hbs : bs.length ≤ s.cfg.wMax) : (s.loadBuf bs).Sound := by
  obtain ⟨hwf, hmem, hbuf, hacc⟩ := h
  refine ⟨hwf, hmem, ?_, hacc⟩
  rw [State.loadBuf_buf, List.length_append, List.length_drop, hbuf, State.loadBuf_cfg]
  omega

theorem sound_setAcc {v : Nat} (h : s.Sound) (hv : v < 2 ^ (8 * s.cfg.wMax)) : (s.setAcc v).Sound := by
  obtain ⟨hwf, hmem, hbuf, -⟩ := h
  obtain ⟨-, hmax, -, -⟩ := wf_bounds hwf
  refine ⟨hwf, hmem, hbuf, ?_⟩
  rwa [setAcc_toNat s hv hmax]

theorem sound_afterMove {m : Memory} (h : s.Sound) (hm : Memory.wf m = true) : (s.afterMove m).Sound := by
  obtain ⟨hwf, -, hbuf, hacc⟩ := h
  exact ⟨hwf, Memory.wf_change _ hm, hbuf, hacc⟩

theorem sound_afterMove_heldMem (h : s.Sound) : (s.afterMove s.heldMem).Sound :=
  sound_afterMove h (State.heldMem_wf h.2.1)

theorem sound_afterRead {ra : RegAddr} {n : Nat} (h : s.Sound) (hn : n ≤ s.cfg.wMax) : (s.afterRead ra n).Sound := by
  have hlog : ((s.afterMove s.heldMem).log (.read s.devAddr ra n (s.sees ra n))).Sound :=
    sound_of_same (sound_afterMove_heldMem h) rfl rfl rfl rfl
  exact sound_loadBuf hlog (by simpa using hn)

theorem sound_afterWrite {ra : RegAddr} {bs : List Byte} (h : s.Sound) (hbs : bs.length ≤ s.cfg.wMax) :
    (s.afterWrite ra bs).Sound :=
  sound_of_same (sound_afterMove (sound_loadBuf h hbs) (Memory.wf_store s.devAddr ra bs (State.heldMem_wf h.2.1)))
    rfl rfl rfl rfl

theorem sound_blockReset (hwf : s.cfg.wf = true) (hmem : Memory.wf s.mem = true) : s.blockReset.Sound :=
  ⟨hwf, hmem, List.length_replicate, Nat.two_pow_pos _⟩

end

/-! ### The command in progress -/

theorem inProgress_iff (s : State) (i : Instr) : s.inProgress i = true ↔
    Instr.legal s.cfg i = true ∧ hasStep i s.seq = true ∧ s.inited = !i.isInit ∧
      (i.isInit = true → s.devAddr = s.data.setWidth 7) ∧
      (s.seq.writesBack = true → s.acc.toNat < 2 ^ (8 * backWidth i)) := by
  simp only [State.inProgress, Bool.and_eq_true, Bool.or_eq_true, beq_iff_eq, decide_eq_true_eq, Bool.not_eq_true',
    ← Bool.not_eq_true, and_assoc, imp_iff_not_or]

theorem latchesHold_iff (s : State) : s.latchesHold = true ↔
    (s.seq ≠ .idle → ∃ i, decode s.cmd s.data = .ok i ∧ s.inProgress i = true) := by
  rw [State.latchesHold, Bool.or_eq_true, beq_iff_eq, or_iff_not_imp_left]
  cases hd : decode s.cmd s.data <;> simp

theorem inv_of_idle {s : State} (h : s.Sound) (hs : s.seq = .idle) : s.Inv :=
  (inv_iff s).mpr ⟨h, (latchesHold_iff s).mpr fun hne => absurd hs hne⟩

theorem firstStep_writesBack (i : Instr) : (firstStep i).writesBack = false := by cases i <;> rfl

theorem hasStep_firstStep (i : Instr) : hasStep i (firstStep i) = true := by cases i <;> rfl

theorem ne_idle_of_hasStep {i : Instr} {q : Seq} (h : hasStep i q = true) : q ≠ .idle := by
  rintro rfl
  cases i <;> cases h

/-- What a step of a command in progress keeps, whatever its transaction's reply. -/
theorem progress_frame {i : Instr} {s t : State} (h : Progress i s t) :
    t.cfg = s.cfg ∧ t.devAddr = s.devAddr ∧ t.cmd = s.cmd ∧ t.data = s.data ∧ t.inbox = s.inbox := by
  cases h <;> simp

/-- A step of a command in progress keeps the sizes, as the command's windows fit `BUF` (R34). -/
theorem progress_sound {i : Instr} {s t : State} (hs : s.Sound) (hl : Instr.legal s.cfg i = true) (h : Progress i s t) :
    t.Sound := by
  have hwf := hs.1
  cases h with
  | delays => exact sound_of_same hs rfl rfl rfl rfl
  | readsOn ra n v q _ hn hv =>
    have hread := sound_afterRead (ra := ra) hs (hn hwf hl)
    exact sound_of_same (sound_setAcc hread (lt_of_fits hv (hn hwf hl))) rfl rfl rfl rfl
  | readsEnd ra n v st r _ hn hv =>
    have hread := sound_afterRead (ra := ra) hs (hn hwf hl)
    exact sound_of_same (sound_setAcc hread (hv (hn hwf hl))) rfl rfl rfl rfl
  | completes ra n _ _ hn => exact sound_of_same (sound_afterRead (ra := ra) hs (hn hwf hl)) rfl rfl rfl rfl
  | writesOn ra bs q _ hn => exact sound_of_same (sound_afterWrite (ra := ra) hs (hn hwf hl)) rfl rfl rfl rfl
  | writesEnd ra bs _ hn => exact sound_of_same (sound_afterWrite (ra := ra) hs (hn hwf hl)) rfl rfl rfl rfl
  | readFails => exact sound_of_same (sound_afterMove_heldMem hs) rfl rfl rfl rfl
  | writeFails ra bs c _ _ hn =>
    exact sound_of_same (sound_afterMove_heldMem (sound_loadBuf hs (hn hwf hl))) rfl rfl rfl rfl
  | readWaits => exact sound_afterMove_heldMem hs
  | writeWaits bs _ _ hn => exact sound_afterMove_heldMem (sound_loadBuf hs (hn hwf hl))

/-- A step of a command in progress ends it, or leaves it at a step of its own with a window that fits its bytes. -/
theorem progress_goesOn {i : Instr} {s t : State} (hs : s.Sound) (hp : s.inProgress i = true) (h : Progress i s t) :
    t.seq = .idle ∨ (t.inited = s.inited ∧ hasStep i t.seq = true ∧
      (t.seq.writesBack = true → t.acc.toNat < 2 ^ (8 * backWidth i))) := by
  obtain ⟨hl, hstep, -, -, hback⟩ := (inProgress_iff s i).mp hp
  obtain ⟨hwf, -, -, -⟩ := hs
  cases h with
  | delays _ _ hstep' => exact .inr ⟨by simp, hstep', by simp [Seq.writesBack]⟩
  | readsOn ra n v q _ hn hv hback' _ hstep' =>
    have hmax := (hn hwf hl).trans (wf_bounds hwf).2.1
    have hacc := setAcc_toNat (s.afterRead ra n) hv hmax
    exact .inr ⟨by simp, hstep', fun h => by rwa [State.setSeq_acc, hacc, ← hback' h]⟩
  | writesOn ra bs q _ _ hback' _ hstep' => exact .inr ⟨by simp, hstep', by simp [hback']⟩
  | readWaits => exact .inr ⟨by simp, hstep, hback⟩
  | writeWaits => exact .inr ⟨by simp, hstep, hback⟩
  | readsEnd | completes | writesEnd | readFails | writeFails => exact .inl (by simp)

/-- A step of a command in progress keeps the invariant. -/
theorem progress_inv {i : Instr} {s t : State} (hs : s.Sound) (hd : decode s.cmd s.data = .ok i)
    (hp : s.inProgress i = true) (h : Progress i s t) : t.Inv := by
  obtain ⟨hl, -, hinited, haddr, -⟩ := (inProgress_iff s i).mp hp
  obtain ⟨hcfg, hda, hcmd, hdata, -⟩ := progress_frame h
  have hsound := progress_sound hs hl h
  rcases progress_goesOn hs hp h with hidle | ⟨hinited', hstep', hback'⟩
  · exact inv_of_idle hsound hidle
  · refine (inv_iff t).mpr ⟨hsound, (latchesHold_iff t).mpr fun _ => ⟨i, by rwa [hcmd, hdata], ?_⟩⟩
    rw [inProgress_iff, hcfg, hda, hdata, hinited']
    exact ⟨hl, hstep', hinited, haddr, hback'⟩

/-! ### The invariant -/

theorem resetWith_inv {c : Config} (h : c.wf = true) : (State.resetWith c).Inv :=
  inv_of_idle ⟨h, rfl, List.length_replicate, Nat.two_pow_pos _⟩ rfl

/-- Settles O34: after reset the block is in `IDLE`, with `BUF` of `W_MAX` bytes (R56). -/
theorem resetMeetsTheInvariant : Obligations.ResetMeetsTheInvariant :=
  ⟨resetWith_inv (by decide), fun _ h => resetWith_inv h⟩

/-- Settles O35: a reset or a refusal leaves the block in `IDLE`, an acceptance at the first step of the command it
latched, and a step in progress is by `progress_inv`. -/
theorem everyStepKeepsTheInvariant : Obligations.EveryStepKeepsTheInvariant := by
  intro s t hinv hstep
  obtain ⟨hs, hhold⟩ := (inv_iff s).mp hinv
  have hsame (u : State) (hcfg : u.cfg = s.cfg) (hmem : u.mem = s.mem) (hbuf : u.buf = s.buf) (hacc : u.acc = s.acc) :
      u.Sound := sound_of_same hs hcfg hmem hbuf hacc
  cases transition_of_step hstep with
  | resets rest hin => exact inv_of_idle (sound_blockReset hs.1 hs.2.1) rfl
  | waits rest hidle => exact inv_of_idle (hsame _ rfl rfl rfl rfl) hidle
  | refuses rest e hidle => exact inv_of_idle (hsame _ rfl rfl rfl rfl) rfl
  | starts rest i hidle hl hi hinited =>
    have hsound : (((s.setInbox rest).latch i).setSeq (firstStep i)).Sound :=
      hsame _ (by simp) (by simp) (by simp) (by simp)
    refine (inv_iff _).mpr ⟨hsound, (latchesHold_iff _).mpr fun _ => ⟨i, by simpa using decode_encode i, ?_⟩⟩
    simp [inProgress_iff, hl, hi, hinited, hasStep_firstStep, firstStep_writesBack]
  | opens rest addr hidle hl =>
    have hsound : ((((s.setInbox rest).latch (.init addr)).openHandle addr).setSeq .iId).Sound :=
      hsame _ (by simp) (by simp) (by simp) (by simp)
    have hdecode := decode_encode (.init addr)
    refine (inv_iff _).mpr ⟨hsound, (latchesHold_iff _).mpr fun _ => ⟨.init addr, by simpa using hdecode, ?_⟩⟩
    simp [inProgress_iff, hl, Instr.isInit, hasStep, Seq.writesBack, encodeData]
  | progresses i t hne hd _ h =>
    obtain ⟨j, hj, hp⟩ := (latchesHold_iff s).mp hhold hne
    obtain rfl : i = j := Except.ok.inj (hd.symm.trans hj)
    exact progress_inv (hsame (s.setInbox s.waitingInputs) rfl rfl rfl rfl) hd hp h

/-- Settles O36: the invariant rules out the one condition under which a step ends in a fault. -/
theorem invariantStatesNeverStop : Obligations.InvariantStatesNeverStop := by
  intro s hinv
  rcases step_transition s with ⟨t, ht, -⟩ | ⟨hne, hforeign, -⟩
  · exact ⟨t, ht⟩
  · obtain ⟨i, hd, hp⟩ := (latchesHold_iff s).mp ((inv_iff s).mp hinv).2 hne
    obtain ⟨-, hstep, -⟩ := (inProgress_iff s i).mp hp
    rw [hforeign i hd] at hstep
    cases hstep

/-! ### The sequencer's table -/

/-- The next step by the table of R37, by the reply of the step's transaction. -/
def FollowsTable (i : Instr) (s t : State) : Prop :=
  (s.seq = .iPollWait ∨ s.move.reply = .ok → t.seq ∈ successors i s.seq) ∧
  (s.seq ≠ .iPollWait → (∃ c, s.move.reply = .fail c) → t.seq = .idle) ∧
  (s.seq ≠ .iPollWait → s.move.reply = .pending → t.seq = s.seq)

section
variable {i : Instr} {s t : State}

theorem followsTable_of_ok (hok : s.move.reply = .ok) (hq : t.seq ∈ successors i s.seq) : FollowsTable i s t := by
  simp [FollowsTable, hok, hq]

theorem followsTable_of_fail {c : Cause} (hc : s.move.reply = .fail c) (hwait : s.seq ≠ .iPollWait)
    (ht : t.seq = .idle) : FollowsTable i s t := by
  simp [FollowsTable, hc, hwait, ht]

theorem followsTable_of_pending (hp : s.move.reply = .pending) (hwait : s.seq ≠ .iPollWait) (ht : t.seq = s.seq) :
    FollowsTable i s t := by
  simp [FollowsTable, hp, hwait, ht]

theorem progress_followsTable (hwf : s.cfg.wf = true) (h : Progress i s t) : FollowsTable i s t := by
  cases h with
  | delays hs hq => exact ⟨fun _ => hq, fun hne => absurd hs hne, fun hne => absurd hs hne⟩
  | readsOn _ _ _ _ hok _ _ _ hq => exact followsTable_of_ok hok hq
  | readsEnd _ _ _ _ _ hok _ _ hq => exact followsTable_of_ok hok (hq hwf)
  | completes _ _ hok _ _ hq => exact followsTable_of_ok hok hq
  | writesOn _ _ _ hok _ _ hq => exact followsTable_of_ok hok hq
  | writesEnd _ _ hok _ hq => exact followsTable_of_ok hok hq
  | readFails _ _ _ hc hwait => exact followsTable_of_fail hc hwait rfl
  | writeFails _ _ _ hc hwait => exact followsTable_of_fail hc hwait rfl
  | readWaits hp hwait => exact followsTable_of_pending hp hwait rfl
  | writeWaits _ hp hwait => exact followsTable_of_pending hp hwait rfl

end

/-- Settles O37: the successors are those of the step in progress, by its transaction's reply (R37). -/
theorem sequencerFollowsTheTable : Obligations.SequencerFollowsTheTable := by
  intro s t i hwf hs hreset hd hstep
  obtain ⟨j, hj, -, h⟩ := progress_of_step hs hreset hstep
  obtain rfl : i = j := Except.ok.inj (hd.symm.trans hj)
  exact progress_followsTable (s := s.setInbox s.waitingInputs) hwf h

/-! ### Who writes what -/

/-- Settles O17: a step of the command in progress keeps the latches, and takes no presented command (R92, R231). -/
theorem commandsDoNotOverlap : Obligations.CommandsDoNotOverlap := by
  refine ⟨fun s t cmd data rest hs hin hstep => ?_, fun s hs hin => ?_⟩
  · obtain ⟨i, -, -, h⟩ := progress_of_step hs (by simp [hin]) hstep
    obtain ⟨-, -, hcmd, hdata, hinbox⟩ := progress_frame h
    have hwait : s.waitingInputs = s.inbox := by simp [State.waitingInputs, hin]
    exact ⟨hinbox.trans hwait, hcmd, hdata⟩
  · have hwait : s.waitingInputs = s.inbox := by simp [State.waitingInputs, hin]
    rw [step_waits hs (by simp [hin]) (by simp [hin]), hwait]
    rfl

/-- A step of a command in progress writes `INITED` only where INIT completes (R57, R168). -/
theorem progress_inited {i : Instr} {s t : State} (h : Progress i s t) :
    t.inited = s.inited ∨ (t.inited = true ∧ s.seq = .iPrimeRd ∧ Responds s t .ok 0#32) := by
  cases h with
  | completes ra n _ hs => exact .inr ⟨rfl, hs, by simp [Responds]⟩
  | _ => exact .inl (by simp)

/-- Settles O38: the writers among the steps: INIT's acceptance and completion, and an acceptance's latches (R57). -/
theorem registersAreWrittenByTheirWriters : Obligations.RegistersAreWrittenByTheirWriters := by
  intro s t hreset hstep
  cases transition_of_step hstep with
  | resets rest hin => exact absurd (congrArg List.head? hin) hreset
  | waits => simp
  | refuses => simp
  | starts rest i hs => simp [hs, ne_idle_of_hasStep (hasStep_firstStep i)]
  | opens rest addr hs => simp [hs]
  | progresses i t _ _ _ h =>
    obtain ⟨hcfg, hda, hcmd, hdata, -⟩ := progress_frame h
    refine ⟨hcfg, fun hne => absurd hda hne, fun hne => .inr ?_, fun hne => ?_⟩
    · exact (progress_inited h).resolve_left hne
    · exact absurd hdata (hne.resolve_left (not_not_intro hcmd))

/-! ### One transaction, one response -/

theorem progress_trace {i : Instr} {s t : State} (h : Progress i s t) :
    ∃ events, t.trace = s.trace ++ events ∧ events.length ≤ 1 ∧ ∀ e ∈ events, e.addresses s.devAddr = true := by
  cases h with
  | readWaits => exact ⟨[], by simp⟩
  | writeWaits => exact ⟨[], by simp⟩
  | _ => exact ⟨[_], rfl, Nat.le_refl 1, by simp [Event.addresses]⟩

/-- Settles O39: a step in progress makes at most one transaction, at the handle's address, the others none (R76). -/
theorem oneTransactionAtATime : Obligations.OneTransactionAtATime := by
  intro s t hstep
  cases transition_of_step hstep with
  | progresses i t hne _ _ h =>
    obtain ⟨events, htrace, hlen, haddr⟩ := progress_trace h
    exact ⟨events, htrace, hlen, fun hs => absurd hs hne, haddr⟩
  | _ => exact ⟨[], by simp⟩

theorem respond_ends {s u : State} (st : Status) (r : Word) (h : u.responses = s.responses) :
    ∃ r', (u.respond st r).responses = s.responses ++ [r'] ∧ (u.respond st r).seq = .idle :=
  ⟨⟨st, r⟩, by rw [State.respond_responses, h], State.respond_seq u st r⟩

/-- A step of a command in progress delivers its response and ends it, or delivers none and does not (R91). -/
theorem progress_responses {i : Instr} {s t : State} (hs : s.seq ≠ .idle) (h : Progress i s t) :
    (t.responses = s.responses ∧ t.seq ≠ .idle) ∨ (∃ r, t.responses = s.responses ++ [r] ∧ t.seq = .idle) := by
  cases h with
  | delays => exact .inl ⟨by simp, by simp⟩
  | readsOn _ _ _ _ _ _ _ _ _ hstep => exact .inl ⟨by simp, ne_idle_of_hasStep hstep⟩
  | writesOn _ _ _ _ _ _ _ hstep => exact .inl ⟨by simp, ne_idle_of_hasStep hstep⟩
  | readWaits => exact .inl ⟨by simp, hs⟩
  | writeWaits => exact .inl ⟨by simp, hs⟩
  | readsEnd | completes | writesEnd | readFails | writeFails => exact .inr (respond_ends _ _ (by simp))

/-- Settles O40: a refusal delivers one response in `IDLE`, an acceptance none, and a step in progress at most one
(R91). -/
theorem oneResponseForEachCommand : Obligations.OneResponseForEachCommand := by
  intro s t hreset hstep
  cases transition_of_step hstep with
  | resets rest hin => exact absurd (congrArg List.head? hin) hreset
  | waits rest hs => exact ⟨.inl rfl, fun hne => absurd hs hne⟩
  | refuses rest e hs => exact ⟨.inr ⟨_, rfl, rfl⟩, fun hne => absurd hs hne⟩
  | starts rest i hs => exact ⟨.inl (by simp), fun hne => absurd hs hne⟩
  | opens rest addr hs => exact ⟨.inl (by simp), fun hne => absurd hs hne⟩
  | progresses i t hne _ _ h =>
    rcases progress_responses (s := s.setInbox s.waitingInputs) hne h with ⟨hresp, hseq⟩ | ⟨r, hresp, hseq⟩
    · have hresp' : t.responses = s.responses := hresp
      exact ⟨.inl hresp', fun _ => ⟨fun hidle => absurd hidle hseq, fun ⟨r, hr⟩ => by simp [hresp'] at hr⟩⟩
    · exact ⟨.inr ⟨r, hresp, hseq⟩, fun _ => ⟨fun _ => ⟨r, hresp⟩, fun _ => hseq⟩⟩

end Sys2Proof.Machine
end

section
/-! PROOFS. What an earlier command left in `CMD`, `DATA`, `BUF` and `ACC` is never read (spec/10_state.md R34, R35):
two states that differ in these only make the same steps, as a command in progress reads the latches and the `ACC` that
its own acceptance and its own read half wrote. -/

namespace Sys2Proof.Machine

/-! ### States that agree -/

/-- The two states differ in the working registers only, and not in those the command in progress has written itself:
the latches, and before a write-back `ACC`. -/
def Agrees (s s' : State) : Prop :=
  AgreeButWorking s s' ∧ (s.seq ≠ .idle → s'.cmd = s.cmd ∧ s'.data = s.data) ∧
  (s.seq.writesBack = true → s'.acc = s.acc)

/-- Each next state of the one result is matched by one of the other. -/
def ResultsAgree (r r' : Result) : Prop := ∀ t, r = .next t → ∃ t', r' = .next t' ∧ Agrees t t'

theorem agreeButWorking_iff (s s' : State) : AgreeButWorking s s' ↔
    ∃ cmd data buf acc, s' = { s with cmd := cmd, data := data, buf := buf, acc := acc } := by
  refine ⟨fun h => ⟨_, _, _, _, h⟩, ?_⟩
  rintro ⟨cmd, data, buf, acc, rfl⟩
  rfl

theorem resultsAgree_next {t t' : State} (h : Agrees t t') : ResultsAgree (.next t) (.next t') := by
  rintro u ⟨⟩
  exact ⟨t', rfl, h⟩

section
variable {s s' : State}

theorem agrees_of_idle (h : AgreeButWorking s s') (hs : s.seq = .idle) : Agrees s s' :=
  ⟨h, fun hne => absurd hs hne, fun hback => by rw [hs] at hback; cases hback⟩

theorem agreeButWorking_setAcc (h : AgreeButWorking s s') (v : Nat) : AgreeButWorking (s.setAcc v) (s'.setAcc v) := by
  obtain ⟨_, _, _, _, rfl⟩ := (agreeButWorking_iff s s').mp h
  rfl

theorem agrees_respond (h : AgreeButWorking s s') (st : Status) (r : Word) :
    Agrees (s.respond st r) (s'.respond st r) := by
  obtain ⟨_, _, _, _, rfl⟩ := (agreeButWorking_iff s s').mp h
  exact agrees_of_idle rfl rfl

/-- The step a command goes on to, where the latches agree, and `ACC` too if that step writes it back. -/
theorem agrees_setSeq {q : Seq} (h : AgreeButWorking s s') (hlatch : s'.cmd = s.cmd ∧ s'.data = s.data)
    (hacc : q.writesBack = true → s'.acc = s.acc) : Agrees (s.setSeq q) (s'.setSeq q) := by
  refine ⟨?_, fun _ => hlatch, hacc⟩
  obtain ⟨_, _, _, _, rfl⟩ := (agreeButWorking_iff s s').mp h
  rfl

theorem agrees_setInbox (h : Agrees s s') (l : List HostInput) : Agrees (s.setInbox l) (s'.setInbox l) := by
  obtain ⟨hagree, hlatch, hacc⟩ := h
  obtain ⟨_, _, _, _, rfl⟩ := (agreeButWorking_iff s s').mp hagree
  exact ⟨rfl, hlatch, hacc⟩

/-! ### A step of a command in progress -/

/-- What two states that differ in the working registers have in common. -/
theorem common_of_agreeButWorking (h : AgreeButWorking s s') :
    s'.cfg = s.cfg ∧ s'.seq = s.seq ∧ s'.inited = s.inited ∧ s'.inbox = s.inbox ∧ s'.move = s.move := by
  obtain ⟨_, _, _, _, rfl⟩ := (agreeButWorking_iff s s').mp h
  exact ⟨rfl, rfl, rfl, rfl, rfl⟩

/-- The two read the same bytes, or fail or wait alike. -/
theorem memRead_agrees {ra : RegAddr} {n : Nat} {k : List Byte → State → Result} (h : Agrees s s')
    (hk : ∀ bytes t t', Agrees t t' → t.seq = s.seq → ResultsAgree (k bytes t) (k bytes t')) :
    ResultsAgree (memRead ra n s k) (memRead ra n s' k) := by
  obtain ⟨hagree, hlatch, hacc⟩ := h
  obtain ⟨-, -, -, -, hmove⟩ := common_of_agreeButWorking hagree
  rcases memRead_cases ra n s k with ⟨hr, he⟩ | ⟨c, hr, he⟩ | ⟨hr, he⟩ <;> rw [← hmove] at hr
  · rw [he, memRead_ok k hr]
    obtain ⟨_, _, _, _, rfl⟩ := (agreeButWorking_iff s s').mp hagree
    exact hk _ _ _ ⟨rfl, hlatch, hacc⟩ rfl
  · rw [he, memRead_fail k hr]
    refine resultsAgree_next (agrees_respond ?_ _ _)
    obtain ⟨_, _, _, _, rfl⟩ := (agreeButWorking_iff s s').mp hagree
    rfl
  · rw [he, memRead_pending k hr]
    obtain ⟨_, _, _, _, rfl⟩ := (agreeButWorking_iff s s').mp hagree
    exact resultsAgree_next ⟨rfl, hlatch, hacc⟩

/-- The two write the same bytes, or fail or wait alike. -/
theorem memWrite_agrees {ra : RegAddr} {bs : List Byte} {k : State → Result} (h : Agrees s s')
    (hk : ∀ t t', Agrees t t' → t.seq = s.seq → ResultsAgree (k t) (k t')) :
    ResultsAgree (memWrite ra bs s k) (memWrite ra bs s' k) := by
  obtain ⟨hagree, hlatch, hacc⟩ := h
  obtain ⟨-, -, -, -, hmove⟩ := common_of_agreeButWorking hagree
  rcases memWrite_cases ra bs s k with ⟨hr, he⟩ | ⟨c, hr, he⟩ | ⟨hr, he⟩ <;> rw [← hmove] at hr
  · rw [he, memWrite_ok k hr]
    obtain ⟨_, _, _, _, rfl⟩ := (agreeButWorking_iff s s').mp hagree
    exact hk _ _ ⟨rfl, hlatch, hacc⟩ rfl
  · rw [he, memWrite_fail k hr]
    refine resultsAgree_next (agrees_respond ?_ _ _)
    obtain ⟨_, _, _, _, rfl⟩ := (agreeButWorking_iff s s').mp hagree
    rfl
  · rw [he, memWrite_pending k hr]
    obtain ⟨_, _, _, _, rfl⟩ := (agreeButWorking_iff s s').mp hagree
    exact resultsAgree_next ⟨rfl, hlatch, hacc⟩

/-- What a command does with the number it read depends on no working register but the latches. -/
def ReadsNoWorking (k : Nat → State → Result) : Prop :=
  ∀ u t t', AgreeButWorking t t' → t'.cmd = t.cmd ∧ t'.data = t.data → ResultsAgree (k u t) (k u t')

/-- A read whose bytes are decoded into `ACC`. -/
theorem memRead_setAcc_agrees {ra : RegAddr} {n : Nat} (value acc : List Byte → Nat) {k : Nat → State → Result}
    (hs : s.seq ≠ .idle) (h : Agrees s s') (hk : ReadsNoWorking k) :
    ResultsAgree (memRead ra n s fun bytes t => k (value bytes) (t.setAcc (acc bytes)))
      (memRead ra n s' fun bytes t => k (value bytes) (t.setAcc (acc bytes))) :=
  memRead_agrees h fun _ _ _ ht hseq => hk _ _ _ (agreeButWorking_setAcc ht.1 _) (ht.2.1 (hseq ▸ hs))

theorem rawFetch_agrees (d : RawRegister) {k : Nat → State → Result} (hs : s.seq ≠ .idle) (h : Agrees s s')
    (hk : ReadsNoWorking k) : ResultsAgree (rawFetch d s k) (rawFetch d s' k) :=
  memRead_setAcc_agrees foldMsb foldMsb hs h hk

theorem fieldRead_agrees (d : BitField) {k : Nat → State → Result} (hs : s.seq ≠ .idle) (h : Agrees s s')
    (hk : ReadsNoWorking k) : ResultsAgree (fieldRead d s k) (fieldRead d s' k) :=
  memRead_setAcc_agrees (extractField d ∘ fold d.lsbf) (fold d.lsbf) hs h hk

/-- The read half of a read-modify-write leaves the same `ACC` for its write half. -/
theorem fieldModify_agrees (d : BitField) (value : Nat) (q : Seq) (hs : s.seq ≠ .idle) (h : Agrees s s') :
    ResultsAgree (fieldModify d value q s) (fieldModify d value q s') := by
  refine memRead_agrees h fun bytes t t' ht hseq => ?_
  obtain ⟨hagree, hlatch, -⟩ := ht
  have hlatch := hlatch (hseq ▸ hs)
  obtain ⟨cmd, data, buf, acc, rfl⟩ := (agreeButWorking_iff t t').mp hagree
  simp only []
  split
  · exact resultsAgree_next (agrees_respond (agreeButWorking_setAcc hagree _) _ _)
  · exact resultsAgree_next (agrees_setSeq (agreeButWorking_setAcc hagree _) hlatch fun _ => rfl)

theorem fieldWriteBack_agrees (d : BitField) {k : State → Result} (hback : s.seq.writesBack = true) (h : Agrees s s')
    (hk : ∀ t t', Agrees t t' → t.seq = s.seq → ResultsAgree (k t) (k t')) :
    ResultsAgree (fieldWriteBack d s k) (fieldWriteBack d s' k) := by
  rw [fieldWriteBack, fieldWriteBack, h.2.2 hback]
  exact memWrite_agrees h hk

/-- The write half of INIT's read-modify-writes goes on to a step that writes nothing back. -/
theorem fieldWriteBack_setSeq_agrees (d : BitField) (q : Seq) (hback : s.seq.writesBack = true)
    (hq : q.writesBack = false) (h : Agrees s s') :
    ResultsAgree (fieldWriteBack d s fun t => .next (t.setSeq q))
      (fieldWriteBack d s' fun t => .next (t.setSeq q)) := by
  have hs : s.seq ≠ .idle := by
    intro hidle
    rw [hidle] at hback
    cases hback
  exact fieldWriteBack_agrees d hback h fun _ _ ht hseq =>
    resultsAgree_next (agrees_setSeq ht.1 (ht.2.1 (hseq ▸ hs)) (by simp [hq]))

theorem agreeButWorking_completeHandle (h : AgreeButWorking s s') :
    AgreeButWorking s.completeHandle s'.completeHandle := by
  obtain ⟨_, _, _, _, rfl⟩ := (agreeButWorking_iff s s').mp h
  rfl

theorem exec_init_agrees (addr : Word) (hstep : hasStep (.init addr) s.seq = true) (h : Agrees s s') :
    ResultsAgree (exec (.init addr) s) (exec (.init addr) s') := by
  obtain ⟨hcfg, hseq, -, -, -⟩ := common_of_agreeButWorking h.1
  cases hs : s.seq <;> simp [hasStep, hs] at hstep <;> rw [hs] at hseq
  case iId =>
    rw [exec_init_iId addr hs, exec_init_iId addr hseq]
    refine rawFetch_agrees _ (by simp [hs]) h fun id t t' ht hlatch => ?_
    rw [(common_of_agreeButWorking ht).1]
    split
    · exact resultsAgree_next (agrees_setSeq ht hlatch (by simp [Seq.writesBack]))
    · exact resultsAgree_next (agrees_respond ht _ _)
  case iSrstRd =>
    rw [exec_init_iSrstRd addr hs, exec_init_iSrstRd addr hseq, hcfg]
    exact fieldModify_agrees _ _ _ (by simp [hs]) h
  case iSrstWr =>
    rw [exec_init_iSrstWr addr hs, exec_init_iSrstWr addr hseq, hcfg]
    exact fieldWriteBack_setSeq_agrees _ _ (by simp [hs, Seq.writesBack]) rfl h
  case iModeRd =>
    rw [exec_init_iModeRd addr hs, exec_init_iModeRd addr hseq, hcfg]
    exact fieldModify_agrees _ _ _ (by simp [hs]) h
  case iModeWr =>
    rw [exec_init_iModeWr addr hs, exec_init_iModeWr addr hseq, hcfg]
    exact fieldWriteBack_setSeq_agrees _ _ (by simp [hs, Seq.writesBack]) rfl h
  case iPollRd =>
    rw [exec_init_iPollRd addr hs, exec_init_iPollRd addr hseq, hcfg]
    refine fieldRead_agrees _ (by simp [hs]) h fun rdy t t' ht hlatch => ?_
    exact resultsAgree_next (agrees_setSeq ht hlatch (by split <;> simp [Seq.writesBack]))
  case iPollWait =>
    rw [exec_init_iPollWait addr hs, exec_init_iPollWait addr hseq]
    obtain ⟨hagree, hlatch, -⟩ := h
    have hlog : AgreeButWorking (s.log (.delay s.cfg.pollDelay)) (s'.log (.delay s'.cfg.pollDelay)) := by
      obtain ⟨_, _, _, _, rfl⟩ := (agreeButWorking_iff s s').mp hagree
      rfl
    exact resultsAgree_next (agrees_setSeq hlog (hlatch (by simp [hs])) (by simp [Seq.writesBack]))
  case iPrimeRd =>
    rw [exec_init_iPrimeRd addr hs, exec_init_iPrimeRd addr hseq]
    exact memRead_agrees h fun _ t t' ht _ =>
      resultsAgree_next (agrees_respond (agreeButWorking_completeHandle ht.1) _ _)

/-- Every command at each of its steps. -/
theorem exec_agrees {i : Instr} (hstep : hasStep i s.seq = true) (h : Agrees s s') :
    ResultsAgree (exec i s) (exec i s') := by
  obtain ⟨-, hseq, -, -, -⟩ := common_of_agreeButWorking h.1
  cases i with
  | init addr => exact exec_init_agrees addr hstep h
  | bfRead d data =>
    have hs : s.seq = .bfRd := by simpa [hasStep] using hstep
    rw [exec_bfRead_bfRd d data hs, exec_bfRead_bfRd d data (hseq.trans hs)]
    exact fieldRead_agrees d (by simp [hs]) h fun _ _ _ ht _ => resultsAgree_next (agrees_respond ht _ _)
  | bfWrite d value =>
    rcases (by simpa [hasStep] using hstep : s.seq = .bfRd ∨ s.seq = .bfWr) with hs | hs
    · rw [exec_bfWrite_bfRd d value hs, exec_bfWrite_bfRd d value (hseq.trans hs)]
      exact fieldModify_agrees d _ _ (by simp [hs]) h
    · rw [exec_bfWrite_bfWr d value hs, exec_bfWrite_bfWr d value (hseq.trans hs)]
      exact fieldWriteBack_agrees d (by simp [hs, Seq.writesBack]) h fun _ _ ht _ =>
        resultsAgree_next (agrees_respond ht.1 _ _)
  | rawRead d data =>
    have hs : s.seq = .rawRd := by simpa [hasStep] using hstep
    rw [exec_rawRead_rawRd d data hs, exec_rawRead_rawRd d data (hseq.trans hs)]
    exact rawFetch_agrees _ (by simp [hs]) h fun _ _ _ ht _ => resultsAgree_next (agrees_respond ht _ _)
  | rawWrite d value =>
    have hs : s.seq = .rawWr := by simpa [hasStep] using hstep
    rw [exec_rawWrite_rawWr d value hs, exec_rawWrite_rawWr d value (hseq.trans hs)]
    exact memWrite_agrees h fun _ _ ht _ => resultsAgree_next (agrees_respond ht.1 _ _)
  | tempRead data =>
    have hs : s.seq = .tRd := by simpa [hasStep] using hstep
    rw [exec_tempRead_tRd data hs, exec_tempRead_tRd data (hseq.trans hs)]
    exact rawFetch_agrees _ (by simp [hs]) h fun _ _ _ ht _ => resultsAgree_next (agrees_respond ht _ _)
  | alertStatus data =>
    have hs : s.seq = .aRd := by simpa [hasStep] using hstep
    rw [exec_alertStatus_aRd data hs, exec_alertStatus_aRd data (hseq.trans hs)]
    refine rawFetch_agrees _ (by simp [hs]) h fun _ _ _ ht _ => ?_
    rw [(common_of_agreeButWorking ht).1]
    exact resultsAgree_next (agrees_respond ht _ _)

/-! ### The other steps, and runs -/

/-- The acceptance of a command latches the same words, or refuses it alike. -/
theorem exec_idle_agrees (i : Instr) (hs : s.seq = .idle) (h : Agrees s s') :
    ResultsAgree (exec i s) (exec i s') := by
  obtain ⟨hagree, -, -⟩ := h
  obtain ⟨hcfg, hseq, hinited', -, -⟩ := common_of_agreeButWorking hagree
  have hs' := hseq.trans hs
  cases hl : Instr.legal s.cfg i with
  | false =>
    rw [exec_idle_illegal hs hl, exec_idle_illegal hs' (hcfg ▸ hl)]
    exact resultsAgree_next (agrees_respond hagree _ _)
  | true =>
    cases hi : i.isInit with
    | true =>
      obtain ⟨addr, rfl⟩ := (isInit_iff i).mp hi
      rw [exec_init_idle_starts hs hl, exec_init_idle_starts hs' (hcfg ▸ hl)]
      refine resultsAgree_next (agrees_setSeq ?_ ⟨rfl, rfl⟩ (by simp [Seq.writesBack]))
      obtain ⟨_, _, _, _, rfl⟩ := (agreeButWorking_iff s s').mp hagree
      rfl
    | false =>
      cases hinited : s.inited with
      | false =>
        rw [exec_idle_notReady hs hl hi hinited, exec_idle_notReady hs' (hcfg ▸ hl) hi (hinited'.trans hinited)]
        exact resultsAgree_next (agrees_respond hagree _ _)
      | true =>
        rw [exec_idle_starts hs hl hi hinited, exec_idle_starts hs' (hcfg ▸ hl) hi (hinited'.trans hinited)]
        refine resultsAgree_next (agrees_setSeq ?_ ⟨rfl, rfl⟩ (by simp [firstStep_writesBack]))
        obtain ⟨_, _, _, _, rfl⟩ := (agreeButWorking_iff s s').mp hagree
        rfl

/-- Every step keeps the agreement. -/
theorem step_agrees (h : Agrees s s') : ResultsAgree (step s) (step s') := by
  obtain ⟨-, hseq, -, hinbox, -⟩ := common_of_agreeButWorking h.1
  have hwaiting : s'.waitingInputs = s.waitingInputs := by rw [State.waitingInputs, State.waitingInputs, hinbox]
  rcases fetch_cases s with ⟨rest, hin, -⟩ | ⟨cmd, data, rest, hs, hin, ⟨i, hd, -⟩ | ⟨e, he, -⟩⟩ |
    ⟨hreset, rest, hrest, ⟨hs, hf⟩ | ⟨hs, ⟨i, hd, -⟩ | ⟨e, he, hf⟩⟩⟩
  · rw [step_reset hin, step_reset (hinbox.trans hin)]
    refine resultsAgree_next (agrees_of_idle ?_ rfl)
    obtain ⟨_, _, _, _, rfl⟩ := (agreeButWorking_iff s s').mp h.1
    rfl
  · rw [step_command hs hin hd, step_command (hseq.trans hs) (hinbox.trans hin) hd]
    exact exec_idle_agrees i hs (agrees_setInbox h rest)
  · rw [step_reserved hs hin he, step_reserved (hseq.trans hs) (hinbox.trans hin) he]
    exact resultsAgree_next (agrees_respond (agrees_setInbox h rest).1 _ _)
  · have hcommand (cmd data : Word) : s.inbox.head? ≠ some (.command cmd data) := by
      intro hhead
      obtain ⟨rest', hin⟩ := List.head?_eq_some_iff.mp hhead
      cases hd : decode cmd data with
      | ok i => cases hf.symm.trans (fetch_command hs hin hd)
      | error e => cases hf.symm.trans (fetch_illegal hs hin hd)
    rw [step_waits hs hreset hcommand, step_waits (hseq.trans hs) (hinbox ▸ hreset) (hinbox ▸ hcommand), hwaiting]
    exact resultsAgree_next (agrees_setInbox h _)
  · obtain ⟨hcmd, hdata⟩ := h.2.1 hs
    rw [step_running hs hreset hd, step_running (hseq.trans_ne hs) (hinbox ▸ hreset) (by rwa [hcmd, hdata]), hwaiting]
    cases hstep : hasStep i s.seq with
    | true => exact exec_agrees (s := s.setInbox s.waitingInputs) hstep (agrees_setInbox h _)
    | false =>
      rw [exec_foreign (s := s.setInbox s.waitingInputs) i hs hstep]
      rintro t ⟨⟩
  · rw [step, hf]
    rintro t ⟨⟩

theorem runs_agree {k : Nat} {t : State} (h : Agrees s s') (hr : runs k s t) : ∃ t', runs k s' t' ∧ Agrees t t' := by
  induction k generalizing s s' with
  | zero =>
    obtain rfl : s = t := hr
    exact ⟨s', rfl, h⟩
  | succ k ih =>
    obtain ⟨u, hstep, hrest⟩ := hr
    obtain ⟨u', hstep', hu⟩ := step_agrees h u hstep
    obtain ⟨t', hrest', ht⟩ := ih hu hrest
    exact ⟨t', ⟨u', hstep', hrest'⟩, ht⟩

end

/-- Settles O41: two `IDLE` states that differ in the working registers agree, and runs keep the agreement (R34,
R35). -/
theorem workingRegistersCarryNothingOver : Obligations.WorkingRegistersCarryNothingOver := by
  intro k s s' t hs hagree hr
  obtain ⟨t', hr', ht, -, -⟩ := runs_agree (agrees_of_idle hagree hs) hr
  refine ⟨t', hr', ?_⟩
  obtain ⟨_, _, _, _, rfl⟩ := (agreeButWorking_iff t t').mp ht
  exact ⟨rfl, rfl, rfl, rfl, rfl, rfl, rfl⟩

end Sys2Proof.Machine
end

section
/-! PROOFS. BF_WRITE run whole against the reference device: what it preserves and what it exchanges (R82, R124, R125);
and the bounded response of every command other than INIT (R252). -/

namespace Sys2Proof.Machine

/-! ### The window BF_WRITE leaves -/

/-- The window after a store of `be_bytes` (R66, R82). -/
theorem window_store_beBytes (m : Memory) (da : BusAddr) (ra : RegAddr) (v : Nat) {n : Nat} (hn : n ≤ 8) :
    Memory.window (Memory.store m da ra (beBytes v n)) da ra n = beBytes v n := by
  have hwindow := Memory.window_store_same m da ra (beBytes v n) (by rwa [beBytes_length])
  rwa [beBytes_length] at hwindow

/-- Settles O43: the stored window is the number inserted, and the store leaves every other place alone (R124). -/
theorem bfWritePreservesTheRest : Obligations.BfWritePreservesTheRest := by
  intro d v s hl horder hv hs hinited hin hq
  obtain ⟨t, hruns, hresponds, hmem, -⟩ := runs_bfWrite (k := 0) hl hv hs hinited hin (by simp [LetsRun]) hq
  have hwidth : d.lsbf = false ∨ (Memory.window s.mem s.devAddr d.ra d.rw.toNat).length = 1 :=
    horder.imp_right fun h => by rw [Memory.window_length, h]; rfl
  have hlt := newWindow_lt hl hv (Memory.window_length s.mem s.devAddr d.ra d.rw.toNat)
  have hrw := (field_inside_of_legal hl).1
  refine ⟨t, hruns, hresponds, ?_, fun a ha => ?_⟩
  · rw [hmem, window_store_beBytes _ _ _ _ (by omega), foldMsb_beBytes _ _ hlt, newWindow, fold_eq_foldMsb hwidth]
    rfl
  · rw [hmem, Memory.holds_store_outside _ _ _ _ _ (by rwa [beBytes_length])]

/-- Inserting the value a field already has changes nothing (R125). -/
theorem insertField_extractField (d : BitField) (acc : Nat) : insertField d acc (extractField d acc) = acc := by
  apply Nat.eq_of_testBit_eq
  intro k
  rw [testBit_insertField, extractField, maskOf, Nat.testBit_shiftRight, Nat.testBit_and, testBit_fieldMask]
  by_cases hk : d.sb.toNat ≤ k
  · have hwidth : k - d.sb.toNat < d.fw.toNat ↔ k < d.sb.toNat + d.fw.toNat := by omega
    by_cases hin : k < d.sb.toNat + d.fw.toNat <;> simp [hk, hwidth, hin]
  · simp [hk]

/-- Settles O44: the window is read least significant byte first and written back most significant byte first (R125). -/
theorem lsbFirstWriteExchangesTheBytes : Obligations.LsbFirstWriteExchangesTheBytes := by
  intro d v b0 b1 s hl hlsbf hrw hs hinited hin hq hwindow hv
  have htwo : d.rw.toNat = 2 := by rw [hrw]; rfl
  have hfold : fold d.lsbf [b0, b1] = foldMsb [b1, b0] := by rw [hlsbf]; rfl
  have hvalue : v.toNat = extractField d (foldMsb [b1, b0]) := by rw [hv, foldMsb_pair]
  have hfits : v.toNat < 2 ^ d.fw.toNat := hvalue ▸ extractField_lt d _
  obtain ⟨t, hruns, hresponds, hmem, -⟩ := runs_bfWrite (k := 0) hl hfits hs hinited hin (by simp [LetsRun]) hq
  refine ⟨t, hruns, hresponds, ?_⟩
  rw [hmem, htwo, window_store_beBytes _ _ _ _ (by decide), hwindow, newWindow, hfold, hvalue, insertField_extractField]
  exact beBytes_foldMsb [b1, b0]

/-! ### A transport that returns -/

section
variable {s t : State} {k : Nat}

theorem reply_of_answers (h : s.answers (k + 1)) : s.move.reply ≠ .pending := by
  obtain ⟨hlen, hall⟩ := h
  cases hscript : s.script with
  | nil => simp [hscript] at hlen
  | cons m moves =>
    rw [State.move, hscript]
    exact hall m (by simp [hscript])

theorem answers_of_script (h : s.answers k) (ht : t.script = s.script) : t.answers k := by
  rwa [State.answers, ht]

theorem answers_of_keeps (h : s.answers (k + 1)) (hk : Keeps s t) : t.answers k := by
  obtain ⟨-, -, -, -, -, -, hscript, -⟩ := hk
  obtain ⟨hlen, hall⟩ := h
  cases hs : s.script with
  | nil => simp [hs] at hlen
  | cons m moves =>
    rw [hs] at hlen hall
    rw [State.answers, hscript, hs, List.tail_cons]
    exact ⟨Nat.le_of_succ_le_succ hlen, fun x hx => hall x (by simp [hx])⟩

end

/-! ### One transaction that ends a command -/

/-- The command ends in this step with one transaction, which where it ends `OK` is the kind counted. -/
def EndsWith (s t : State) (counts : Nat × Nat) : Prop :=
  ∃ st result e, Responds s t st result ∧ Logs s t e ∧
    (st = .ok → ([e].countP Event.isRead, [e].countP Event.isWrite) = counts ∧ 1 = counts.1 + counts.2)

section
variable {s t : State} {result : Word} {da : BusAddr} {ra : RegAddr}

theorem endsWith_read {n : Nat} {bytes : List Byte} (h : Responds s t .ok result)
    (hlog : Logs s t (.read da ra n bytes)) : EndsWith s t (1, 0) := ⟨_, _, _, h, hlog, fun _ => ⟨rfl, rfl⟩⟩

theorem endsWith_write {bytes : List Byte} (h : Responds s t .ok result) (hlog : Logs s t (.write da ra bytes)) :
    EndsWith s t (0, 1) := ⟨_, _, _, h, hlog, fun _ => ⟨rfl, rfl⟩⟩

end

/-- A failed transaction ends a command, not with `OK` (R202). -/
theorem exec_fails_endsWith {i : Instr} {s : State} {c : Cause} (counts : Nat × Nat) (hstep : hasStep i s.seq = true)
    (hwait : s.seq ≠ .iPollWait) (hc : s.move.reply = .fail c) : ∃ t, exec i s = .next t ∧ EndsWith s t counts := by
  obtain ⟨t, he, hresponds, -⟩ := transportFailuresEndTheCommand i s c hstep hwait hc
  obtain ⟨u, hu, hlog⟩ := failedTransactionsAreTheStepsOwn i s c hstep hwait hc
  obtain rfl : t = u := Host.Outcome.next.inj (he.symm.trans hu)
  exact ⟨t, he, _, _, _, hresponds, hlog, nofun⟩

/-- A command of one transaction ends at its first step, if the transport returns (R121, R141, R142, R171, R175). -/
theorem exec_firstStep_endsWith {i : Instr} {s : State} (hi : i.isInit = false) (hwrite : ∀ d v, i ≠ .bfWrite d v)
    (hl : Instr.legal s.cfg i = true) (hs : s.seq = firstStep i) (hr : s.move.reply ≠ .pending) :
    ∃ t, exec i s = .next t ∧ EndsWith s t (transactionCounts i) := by
  cases hreply : s.move.reply with
  | pending => exact absurd hreply hr
  | fail c =>
    have hwait : firstStep i ≠ .iPollWait := by cases i <;> simp [firstStep]
    exact exec_fails_endsWith _ (hs ▸ hasStep_firstStep i) (hs ▸ hwait) hreply
  | ok =>
    cases i with
    | init => cases hi
    | bfWrite d v => exact absurd rfl (hwrite d v)
    | bfRead d data =>
      obtain ⟨-, t, he, hresponds, hlog, -⟩ := (bfReadReturnsTheField d data s hs).1 hreply
      exact ⟨t, he, endsWith_read hresponds hlog⟩
    | rawRead d data =>
      obtain ⟨t, _, he, hresponds, -, -, hlog, -⟩ := (rawReadReturnsTheScalar d data s hs hl).1 hreply
      exact ⟨t, he, endsWith_read hresponds hlog⟩
    | rawWrite d value =>
      obtain ⟨t, he, hresponds, hlog, -⟩ := (rawWriteSendsOneByte d value s hs).1 hreply
      exact ⟨t, he, endsWith_write hresponds hlog⟩
    | tempRead data =>
      obtain ⟨t, _, he, hresponds, -, hlog, -⟩ := (tempReadReturnsTheRawTemperature data s hs).1 hreply
      exact ⟨t, he, endsWith_read hresponds hlog⟩
    | alertStatus data =>
      obtain ⟨t, he, hresponds, hlog, -⟩ := (alertStatusReturnsTheFlags data s hs).1 hreply
      exact ⟨t, he, endsWith_read hresponds hlog⟩

/-! ### The bounded response -/

/-- Within `bound` steps the command delivers its one response, after one or two transactions, and where it ends `OK`
after those of R252. -/
def RespondsWithin (bound : Nat) (i : Instr) (s : State) : Prop :=
  ∃ k t st result events, k ≤ bound ∧ runs k s t ∧ Responds s t st result ∧ t.trace = s.trace ++ events ∧
    1 ≤ events.length ∧ events.length ≤ 2 ∧
    (st = .ok → (events.countP Event.isRead, events.countP Event.isWrite) = transactionCounts i ∧
      events.length = (transactionCounts i).1 + (transactionCounts i).2)

section
variable {i : Instr} {s t : State}

/-- A step that makes no transaction and gives no response comes before the bound. -/
theorem respondsWithin_succ {bound : Nat} (hstep : step s = .next t) (hresp : t.responses = s.responses)
    (htrace : t.trace = s.trace) (h : RespondsWithin bound i t) : RespondsWithin (bound + 1) i s := by
  obtain ⟨k, u, st, result, events, hk, hruns, hresponds, hrest⟩ := h
  rw [Responds, hresp] at hresponds
  rw [htrace] at hrest
  exact ⟨k + 1, u, st, result, events, Nat.succ_le_succ hk, ⟨t, hstep, hruns⟩, hresponds, hrest⟩

theorem respondsWithin_one (hstep : step s = .next t) (h : EndsWith s t (transactionCounts i)) :
    RespondsWithin 1 i s := by
  obtain ⟨st, result, e, hresponds, hlog, hok⟩ := h
  exact ⟨1, t, st, result, [e], Nat.le_refl 1, ⟨t, hstep, rfl⟩, hresponds, hlog, Nat.le_refl 1, Nat.le_succ 1, hok⟩

theorem respondsWithin_mono {m n : Nat} (hmn : m ≤ n) (h : RespondsWithin m i s) : RespondsWithin n i s := by
  obtain ⟨k, t, st, result, events, hk, hrest⟩ := h
  exact ⟨k, t, st, result, events, hk.trans hmn, hrest⟩

end

/-! ### BF_WRITE, which may make a second transaction -/

section
variable {d : BitField} {v : Word} {s : State}

/-- The read half ends the command, or is followed by the write half (R122). -/
theorem exec_bfWrite_bfRd_answers (hl : d.legal s.cfg = true) (hs : s.seq = .bfRd) (hr : s.move.reply ≠ .pending) :
    ∃ t, exec (.bfWrite d v) s = .next t ∧ (EndsWith s t (1, 1) ∨
      (GoesOn s t .bfWr ∧ Keeps s t ∧ ∃ bytes, Logs s t (.read s.devAddr d.ra d.rw.toNat bytes))) := by
  cases hreply : s.move.reply with
  | pending => exact absurd hreply hr
  | fail c =>
    obtain ⟨t, he, hends⟩ :=
      exec_fails_endsWith (i := .bfWrite d v) (1, 1) (by simp [hasStep, hs]) (by simp [hs]) hreply
    exact ⟨t, he, .inl hends⟩
  | ok =>
    obtain ⟨t, he, hlog, -, hkeeps, -, hfits, hover⟩ := ((bfWriteReadsModifiesWrites d v s hl).1 hs).1 hreply
    refine ⟨t, he, ?_⟩
    rcases lt_or_ge (insertField d (fold d.lsbf (s.sees d.ra d.rw.toNat)) v.toNat) (2 ^ (8 * d.rw.toNat)) with hlt | hge
    · exact .inr ⟨(hfits hlt).1, hkeeps, _, hlog⟩
    · exact .inl ⟨_, _, _, hover hge, hlog, nofun⟩

/-- The write half ends the command (R122). -/
theorem exec_bfWrite_bfWr_answers (hl : d.legal s.cfg = true) (hs : s.seq = .bfWr) (hr : s.move.reply ≠ .pending) :
    ∃ t, exec (.bfWrite d v) s = .next t ∧ EndsWith s t (0, 1) := by
  cases hreply : s.move.reply with
  | pending => exact absurd hreply hr
  | fail c => exact exec_fails_endsWith _ (by simp [hasStep, hs]) (by simp [hs]) hreply
  | ok =>
    obtain ⟨t, he, hresponds, hlog, -⟩ := ((bfWriteReadsModifiesWrites d v s hl).2 hs).1 hreply
    exact ⟨t, he, endsWith_write hresponds hlog⟩

/-- BF_WRITE after its acceptance: a read that ends it, or that read and one write (R122, R127). -/
theorem respondsWithin_bfWrite (hl : d.legal s.cfg = true) (hs : s.seq = .bfRd) (hlatch : s.Latched (.bfWrite d v))
    (hans : s.answers 2) : RespondsWithin 2 (.bfWrite d v) s := by
  have hfirst := step_latched (by simp [hs]) hlatch (decode_bfWrite d v)
  obtain ⟨t, he, hends | ⟨⟨hresp, hseq⟩, hkeeps, bytes, hlog⟩⟩ :=
    exec_bfWrite_bfRd_answers (v := v) hl hs (reply_of_answers hans)
  · exact respondsWithin_mono (Nat.le_succ 1) (respondsWithin_one (hfirst.trans he) hends)
  · have hcfg : t.cfg = s.cfg := hkeeps.1
    obtain ⟨u, he', st, result, e, ⟨hresp', hidle⟩, hlog', hok⟩ :=
      exec_bfWrite_bfWr_answers (v := v) (hcfg ▸ hl) hseq (reply_of_answers (answers_of_keeps hans hkeeps))
    have hsecond := step_latched (by simp [hseq]) (latched_of_keeps hkeeps hlatch) (decode_bfWrite d v)
    rw [Logs, hlog, List.append_assoc] at hlog'
    rw [hresp] at hresp'
    have hruns : runs 2 s u := ⟨t, hfirst.trans he, u, hsecond.trans he', rfl⟩
    refine ⟨2, u, st, result, _, Nat.le_refl 2, hruns, ⟨hresp', hidle⟩, hlog', ?_⟩
    simp only [List.length_append, List.length_singleton, List.countP_append, transactionCounts]
    refine ⟨Nat.le_succ 1, Nat.le_refl 2, fun h => ?_⟩
    obtain ⟨hcounts, -⟩ := hok h
    rw [Prod.mk.injEq] at hcounts
    rw [hcounts.1, hcounts.2]
    exact ⟨rfl, trivial⟩

end

/-- The acceptance of a command other than INIT, with nothing more planned (R92, R110). -/
theorem step_accepts {i : Instr} {s : State} (hi : i.isInit = false) (hl : Instr.legal s.cfg i = true)
    (hs : s.seq = .idle) (hinited : s.inited = true) (hin : s.inbox = [presents i]) :
    ∃ t, step s = .next t ∧ t.seq = firstStep i ∧ t.Latched i ∧ t.cfg = s.cfg ∧ t.responses = s.responses ∧
      t.trace = s.trace ∧ t.script = s.script := by
  have hidle : (s.setInbox []).seq = .idle := hs
  refine ⟨_, (step_command hs hin (decode_encode i)).trans (exec_idle_starts hidle hl hi hinited), ?_⟩
  simp [State.Latched, LetsRun]

/-- Settles O45: the acceptance, then one step for a command of one transaction, and at most two for BF_WRITE (R252). -/
theorem commandsOtherThanInitRespond : Obligations.CommandsOtherThanInitRespond := by
  intro i s hne hl hs hinited hin hans
  have hi := isInit_eq_false_of_ne_init hne
  obtain ⟨t, haccept, hseq, hlatch, hcfg, hresp, htrace, hscript⟩ := step_accepts hi hl hs hinited hin
  have hans' := answers_of_script hans hscript
  refine respondsWithin_succ haccept hresp htrace ?_
  by_cases hwrite : ∃ d v, i = .bfWrite d v
  · obtain ⟨d, v, rfl⟩ := hwrite
    exact respondsWithin_bfWrite (hcfg ▸ hl) hseq hlatch hans'
  · have hone (d : BitField) (v : Word) : i ≠ .bfWrite d v := fun h => hwrite ⟨d, v, h⟩
    have hrun : t.seq ≠ .idle := hseq ▸ ne_idle_of_hasStep (hasStep_firstStep i)
    obtain ⟨u, he, hends⟩ := exec_firstStep_endsWith hi hone (hcfg ▸ hl) hseq (reply_of_answers hans')
    exact respondsWithin_mono (Nat.le_succ 1)
      (respondsWithin_one ((step_latched hrun hlatch (decode_encode i)).trans he) hends)

end Sys2Proof.Machine
end

section
/-! PROOFS. INIT run whole (spec/42_device.md R161 to R170): from its acceptance along a script of the device's moves,
with the shapes of the events so far. Each phase is one lemma that extends a run. -/

namespace Sys2Proof.Machine

/-! ### The acceptance, and the device's moves -/

/-- INIT's acceptance, with nothing more planned (R161, R176). -/
theorem step_accepts_init {addr : Word} {s : State} (haddr : addr.toNat < 2 ^ 7) (hs : s.seq = .idle)
    (hin : s.inbox = [presents (.init addr)]) :
    ∃ t, step s = .next t ∧ t.seq = .iId ∧ t.Latched (.init addr) ∧ t.cfg = s.cfg ∧
      t.devAddr = BitVec.ofNat 7 addr.toNat ∧ t.inited = false ∧ t.responses = s.responses ∧ t.trace = s.trace ∧
      t.script = s.script := by
  have hidle : (s.setInbox []).seq = .idle := hs
  refine ⟨_, (step_command hs hin (decode_encode _)).trans (exec_init_idle_starts hidle (init_legal _ haddr)), ?_⟩
  simp [State.Latched, LetsRun]

theorem move_of_script {s : State} {m : DevMove} {moves : List DevMove} (h : s.script = m :: moves) : s.move = m := by
  rw [State.move, h, List.headD_cons]

/-- What a move shows is what a read then sees (R64). -/
theorem sees_of_shows {s : State} {ra : RegAddr} {n : Nat} {P : List Byte → Prop}
    (h : Shows s.move s.devAddr ra n P) : P (s.sees ra n) := h.2 s.mem

/-! ### A run of INIT -/

/-- INIT has got from `b` to step `q` in `k` steps: the device has these moves left, and the events since have these
shapes. The handle's address, the latches, the parameters and the responses are as they were. -/
def Reaches (b : State) (k : Nat) (q : Seq) (moves : List DevMove) (shapes : List Event) : Prop :=
  ∃ t events, runs k b t ∧ t.seq = q ∧ t.script = moves ∧ t.cfg = b.cfg ∧ t.devAddr = b.devAddr ∧ t.cmd = b.cmd ∧
    t.data = b.data ∧ t.inbox = b.inbox ∧ t.responses = b.responses ∧ t.trace = b.trace ++ events ∧
    events.map Event.shape = shapes

theorem runs_snoc {k : Nat} {s t u : State} (hr : runs k s t) (h : step t = .next u) : runs (k + 1) s u :=
  runs_append hr ⟨u, h, rfl⟩

section
variable {b : State} {addr : Word} {k : Nat} {q q' : Seq} {moves : List DevMove} {shapes : List Event}

theorem reaches_refl (b : State) : Reaches b 0 b.seq b.script [] :=
  ⟨b, [], rfl, rfl, rfl, rfl, rfl, rfl, rfl, rfl, rfl, (List.append_nil _).symm, rfl⟩

/-- A step that makes one transaction and goes on extends the run by it. -/
theorem reaches_transaction {m : DevMove} {shape : Event} (hb : b.Latched (.init addr))
    (h : Reaches b k q (m :: moves) shapes) (hq : q ≠ .idle)
    (hexec : ∀ t : State, t.seq = q → t.move = m → t.cfg = b.cfg → t.devAddr = b.devAddr →
      ∃ u e, exec (.init addr) t = .next u ∧ GoesOn t u q' ∧ Logs t u e ∧ Keeps t u ∧ e.shape = shape) :
    Reaches b (k + 1) q' moves (shapes ++ [shape]) := by
  obtain ⟨t, events, hruns, hseq, hscript, hcfg, hda, hcmd, hdata, hinbox, hresp, htrace, hshapes⟩ := h
  obtain ⟨u, e, he, ⟨hresp', hseq'⟩, hlog, ⟨hcfg', hda', -, hcmd', hdata', hinbox', hscript', -⟩, hshape⟩ :=
    hexec t hseq (move_of_script hscript) hcfg hda
  have hlatch : t.Latched (.init addr) := by rwa [State.Latched, hcmd, hdata, hinbox]
  have hstep := (step_latched (hseq ▸ hq) hlatch (decode_encode _)).trans he
  refine ⟨u, events ++ [e], runs_snoc hruns hstep, hseq', ?_, hcfg'.trans hcfg, hda'.trans hda, hcmd'.trans hcmd,
    hdata'.trans hdata, hinbox'.trans hinbox, hresp'.trans hresp, ?_, ?_⟩
  · rw [hscript', hscript, List.tail_cons]
  · rw [hlog, htrace, List.append_assoc]
  · rw [List.map_append, hshapes, List.map_singleton, hshape]

theorem shape_write_beBytes (da : BusAddr) (ra : RegAddr) (v : Nat) :
    (Event.write da ra (beBytes v 2)).shape = writeOf da ra := by
  rw [Event.shape, beBytes_length]
  rfl

/-- Phase 1 (R162). -/
theorem reaches_identity {m : DevMove} (hb : b.Latched (.init addr)) (h : Reaches b k .iId (m :: moves) shapes)
    (hm : Shows m b.devAddr 0x0F#8 2 fun bytes => foldMsb bytes = b.cfg.idExpect.toNat) :
    Reaches b (k + 1) .iSrstRd moves (shapes ++ [readOf b.devAddr 0x0F#8]) := by
  refine reaches_transaction hb h (by simp) fun t hs hmove hcfg hda => ?_
  rw [← hmove, ← hda, ← hcfg] at hm
  obtain ⟨u, he, hlog, -, hkeeps, -, -, hgo, -⟩ := (initChecksTheIdentity addr t hs).1 hm.1
  exact ⟨u, _, he, hgo (sees_of_shows hm), hlog, hkeeps, by rw [hda]; rfl⟩

/-- A read-modify-write of CONFIGURATION: its read half, then its write half. -/
theorem reaches_readModifyWrite {m m' : DevMove} {q'' : Seq} (hb : b.Latched (.init addr))
    (h : Reaches b k q (m :: m' :: moves) shapes) (hm : m.reply = .ok) (hm' : m'.reply = .ok) (hq : q ≠ .idle)
    (hq' : q' ≠ .idle)
    (hread : ∀ t : State, t.cfg = b.cfg → t.seq = q → t.move.reply = .ok → ∃ u bytes, exec (.init addr) t = .next u ∧
      GoesOn t u q' ∧ Logs t u (.read t.devAddr 0x01#8 2 bytes) ∧ Keeps t u)
    (hwrite : ∀ t : State, t.cfg = b.cfg → t.seq = q' → t.move.reply = .ok → ∃ u v, exec (.init addr) t = .next u ∧
      GoesOn t u q'' ∧ Logs t u (.write t.devAddr 0x01#8 (beBytes v 2)) ∧ Keeps t u) :
    Reaches b (k + 1 + 1) q'' moves (shapes ++ [readOf b.devAddr 0x01#8] ++ [writeOf b.devAddr 0x01#8]) := by
  have hhalf : Reaches b (k + 1) q' (m' :: moves) (shapes ++ [readOf b.devAddr 0x01#8]) := by
    refine reaches_transaction hb h hq fun t hs hmove hcfg hda => ?_
    obtain ⟨u, bytes, he, hgo, hlog, hkeeps⟩ := hread t hcfg hs (hmove ▸ hm)
    exact ⟨u, _, he, hgo, hlog, hkeeps, by rw [hda]; rfl⟩
  refine reaches_transaction hb hhalf hq' fun t hs hmove hcfg hda => ?_
  obtain ⟨u, v, he, hgo, hlog, hkeeps⟩ := hwrite t hcfg hs (hmove ▸ hm')
  exact ⟨u, _, he, hgo, hlog, hkeeps, by rw [hda, shape_write_beBytes]⟩

/-- Phase 2 (R163). -/
theorem reaches_softReset {m m' : DevMove} (hb : b.Latched (.init addr)) (hwf : b.cfg.wf = true)
    (h : Reaches b k .iSrstRd (m :: m' :: moves) shapes) (hm : m.reply = .ok) (hm' : m'.reply = .ok) :
    Reaches b (k + 1 + 1) .iModeRd moves (shapes ++ [readOf b.devAddr 0x01#8] ++ [writeOf b.devAddr 0x01#8]) := by
  refine reaches_readModifyWrite (q' := .iSrstWr) hb h hm hm' (by simp) (by simp) (fun t hcfg hs hok => ?_)
    fun t hcfg hs hok => ?_
  · obtain ⟨u, he, hgo, -, hlog, -, hkeeps, -⟩ := ((initRequestsTheSoftReset addr t (hcfg ▸ hwf)).1 hs).1 hok
    exact ⟨u, _, he, hgo, hlog, hkeeps⟩
  · obtain ⟨u, he, hgo, hlog, -, -, hkeeps, -⟩ := ((initRequestsTheSoftReset addr t (hcfg ▸ hwf)).2 hs).1 hok
    exact ⟨u, _, he, hgo, hlog, hkeeps⟩

/-- Phase 3 (R164). -/
theorem reaches_continuous {m m' : DevMove} (hb : b.Latched (.init addr)) (hwf : b.cfg.wf = true)
    (h : Reaches b k .iModeRd (m :: m' :: moves) shapes) (hm : m.reply = .ok) (hm' : m'.reply = .ok) :
    Reaches b (k + 1 + 1) .iPollRd moves (shapes ++ [readOf b.devAddr 0x01#8] ++ [writeOf b.devAddr 0x01#8]) := by
  refine reaches_readModifyWrite (q' := .iModeWr) hb h hm hm' (by simp) (by simp) (fun t hcfg hs hok => ?_)
    fun t hcfg hs hok => ?_
  · obtain ⟨u, he, hgo, -, hlog, -, hkeeps, -⟩ := ((initSetsContinuousConversion addr t (hcfg ▸ hwf)).1 hs).1 hok
    exact ⟨u, _, he, hgo, hlog, hkeeps⟩
  · obtain ⟨u, he, hgo, hlog, -, -, hkeeps, -⟩ := ((initSetsContinuousConversion addr t (hcfg ▸ hwf)).2 hs).1 hok
    exact ⟨u, _, he, hgo, hlog, hkeeps⟩

/-- A poll, by the data-ready bit the device shows (R165). -/
theorem reaches_poll {m : DevMove} (bit : Nat) (hb : b.Latched (.init addr))
    (h : Reaches b k .iPollRd (m :: moves) shapes)
    (hm : Shows m b.devAddr 0x01#8 2 fun bytes => (foldMsb bytes >>> b.cfg.drdySb.toNat) % 2 = bit) :
    Reaches b (k + 1) (if bit = 1 then .iPrimeRd else .iPollWait) moves (shapes ++ [readOf b.devAddr 0x01#8]) := by
  refine reaches_transaction hb h (by simp) fun t hs hmove hcfg hda => ?_
  rw [← hmove, ← hda, ← hcfg] at hm
  obtain ⟨u, he, hgo, hlog, -, -, hkeeps, -⟩ := (initPollsDataReady.1 addr t hs).1 hm.1
  rw [sees_of_shows hm] at hgo
  exact ⟨u, _, he, hgo, hlog, hkeeps, by rw [hda]; rfl⟩

/-- The delay after a poll that found the bit 0: no transaction (R165, R216). -/
theorem reaches_delay (hb : b.Latched (.init addr)) (h : Reaches b k .iPollWait moves shapes) :
    Reaches b (k + 1) .iPollRd moves (shapes ++ [.delay b.cfg.pollDelay]) := by
  obtain ⟨t, events, hruns, hseq, hscript, hcfg, hda, hcmd, hdata, hinbox, hresp, htrace, hshapes⟩ := h
  have hlatch : t.Latched (.init addr) := by rwa [State.Latched, hcmd, hdata, hinbox]
  have hstep := (step_latched (by simp [hseq]) hlatch (decode_encode _)).trans (initPollsDataReady.2 addr t hseq)
  refine ⟨_, events ++ [.delay t.cfg.pollDelay], runs_snoc hruns hstep, rfl, hscript, hcfg, hda, hcmd, hdata, hinbox,
    hresp, ?_, ?_⟩
  · rw [← List.append_assoc, ← htrace]
  · rw [List.map_append, hshapes, hcfg]
    rfl

theorem pollShapes_succ (c : Config) (da : BusAddr) (n : Nat) :
    pollShapes c da (n + 1) = readOf da 0x01#8 :: .delay c.pollDelay :: pollShapes c da n := rfl

/-- Any number of polls that find the bit 0, each followed by a delay (R165, R166). -/
theorem reaches_polls {polls : List DevMove} (hb : b.Latched (.init addr))
    (h : Reaches b k .iPollRd (polls ++ moves) shapes)
    (hpolls : ∀ m ∈ polls,
      Shows m b.devAddr 0x01#8 2 fun bytes => (foldMsb bytes >>> b.cfg.drdySb.toNat) % 2 = 0) :
    Reaches b (k + 2 * polls.length) .iPollRd moves (shapes ++ pollShapes b.cfg b.devAddr polls.length) := by
  induction polls generalizing k shapes with
  | nil =>
    rw [List.length_nil, pollShapes, List.replicate_zero, List.flatten_nil, List.append_nil]
    exact h
  | cons m polls ih =>
    rw [List.forall_mem_cons] at hpolls
    have hround := reaches_delay hb (reaches_poll 0 hb h hpolls.1)
    have hrest := ih hround hpolls.2
    rw [List.length_cons, pollShapes_succ, show k + 2 * (polls.length + 1) = k + 1 + 1 + 2 * polls.length by omega]
    simpa using hrest

/-- Completion: the priming read, and the response (R167, R168). -/
theorem reaches_completion {m : DevMove} (hb : b.Latched (.init addr)) (h : Reaches b k .iPrimeRd (m :: moves) shapes)
    (hm : m.reply = .ok) :
    ∃ t events, runs (k + 1) b t ∧ Responds b t .ok 0#32 ∧ t.inited = true ∧ t.devAddr = b.devAddr ∧
      t.trace = b.trace ++ events ∧ events.map Event.shape = shapes ++ [readOf b.devAddr 0x00#8] := by
  obtain ⟨t, events, hruns, hseq, hscript, hcfg, hda, hcmd, hdata, hinbox, hresp, htrace, hshapes⟩ := h
  have hlatch : t.Latched (.init addr) := by rwa [State.Latched, hcmd, hdata, hinbox]
  have hok : t.move.reply = .ok := by rwa [move_of_script hscript]
  obtain ⟨u, he, hinited, ⟨hresp', hidle⟩, hlog, -, -, -, hda', -⟩ :=
    (initCompletesAfterThePrimingRead addr t hseq).1 hok
  have hstep := (step_latched (by simp [hseq]) hlatch (decode_encode _)).trans he
  refine ⟨u, events ++ [_], runs_snoc hruns hstep, ⟨hresp'.trans (by rw [hresp]), hidle⟩, hinited, hda'.trans hda,
    hlog.trans (by rw [htrace, List.append_assoc]), ?_⟩
  rw [List.map_append, hshapes, hda]
  rfl

end

/-! ### The whole runs -/

/-- Settles O46: the phases in their order, with the polls between (R165, R168, R170). -/
theorem initCompletesAfterNotReadyPolls : Obligations.InitCompletesAfterNotReadyPolls := by
  intro addr s m0 m1 m2 m3 m4 ready prime polls rest da hwf haddr hs hin hscript hid h1 h2 h3 h4 hprime hpolls hready
  obtain ⟨b, haccept, hseq, hlatch, hcfg, hda, -, hresp, htrace, hscript'⟩ := step_accepts_init haddr hs hin
  have hmoves : b.script = m0 :: m1 :: m2 :: m3 :: m4 :: (polls ++ ready :: prime :: rest) := by
    rw [hscript', hscript]
    simp
  have hwf' : b.cfg.wf = true := hcfg ▸ hwf
  change b.devAddr = da at hda
  rw [← hda, ← hcfg] at hid hpolls hready
  have hstart := reaches_refl b
  rw [hseq, hmoves] at hstart
  have hreset := reaches_softReset hlatch hwf' (reaches_identity hlatch hstart hid) h1 h2
  have hphases := reaches_continuous hlatch hwf' hreset h3 h4
  have hprimed := reaches_poll 1 hlatch (reaches_polls hlatch hphases hpolls) hready
  obtain ⟨t, events, hruns, hresponds, hinited, hda', htrace', hshapes⟩ := reaches_completion hlatch hprimed hprime
  rw [Responds, hresp] at hresponds
  rw [htrace] at htrace'
  have hcount : 2 * polls.length + 8 = 0 + 1 + 1 + 1 + 1 + 1 + 2 * polls.length + 1 + 1 + 1 := by omega
  refine ⟨t, events, hcount ▸ ⟨b, haccept, hruns⟩, hresponds, hinited, hda'.trans hda, htrace', ?_⟩
  rw [hshapes, hda, hcfg]
  simp

/-- Settles O47: `k` rounds of a poll and a delay from any state before a poll (R166, R203). -/
theorem initPollHasNoBound : Obligations.InitPollHasNoBound := by
  intro k addr s hs hd hreset hpass hlen hpolls
  obtain ⟨hcmd, hdata⟩ := encode_of_decode_ok hd
  have hlatch : s.Latched (.init addr) := ⟨hcmd.symm, hdata.symm, hreset, hpass⟩
  have hstart := reaches_refl s
  rw [hs, ← List.take_append_drop k s.script] at hstart
  have hrounds := reaches_polls hlatch hstart hpolls
  rw [List.length_take, Nat.min_eq_left hlen, Nat.zero_add] at hrounds
  obtain ⟨t, events, hruns, hseq, -, -, -, -, -, hinbox, hresp, htrace, hshapes⟩ := hrounds
  exact ⟨t, events, hruns, hseq, hresp, hinbox, htrace, hshapes⟩

/-- Settles O48: the acceptance, and one read that shows another identity (R162, R169, R201). -/
theorem wrongIdentityEndsInit : Obligations.WrongIdentityEndsInit := by
  intro addr s m rest haddr hs hin hscript hid
  obtain ⟨b, haccept, hseq, hlatch, hcfg, hda, hinited, hresp, htrace, hscript'⟩ := step_accepts_init haddr hs hin
  rw [← move_of_script (hscript'.trans hscript), ← hda, ← hcfg] at hid
  obtain ⟨t, he, hlog, -, hkeeps, -, -, -, hdiffers⟩ := (initChecksTheIdentity addr b hseq).1 hid.1
  obtain ⟨hresp', hidle⟩ := hdiffers (sees_of_shows hid)
  obtain ⟨-, hda', hinited', -⟩ := hkeeps
  have hstep := (step_latched (by simp [hseq]) hlatch (decode_encode _)).trans he
  refine ⟨t, _, ⟨b, haccept, t, hstep, rfl⟩, ⟨hresp'.trans (by rw [hresp]), hidle⟩, hinited'.trans hinited, ?_,
    hlog.trans (by rw [htrace, hda])⟩
  rw [hda', hda, BitVec.toNat_ofNat, Nat.mod_eq_of_lt haddr]

end Sys2Proof.Machine
end
